-- ==== Sys2Proof/Word.lean ====
section
/-! DEFINITION. The word types of the block (R7, R110): every value it computes with is an unsigned integer of a fixed width. -/

namespace Sys2Proof

/-- A byte, the unit of every exchange and of every host-buffer access (R7, R67). -/
abbrev Byte := BitVec 8

/-- A `CLOCK_W` = 32 bit sample of the millisecond clock; it wraps modulo 2^32 (R40). -/
abbrev Clock := BitVec 32

/-- A channel index as it travels on the wire: 2 bits (R90). -/
abbrev Chan := BitVec 2

/-- The 3-bit status and result codes (R24, R25). -/
abbrev Code := BitVec 3

/-- The 16-bit distance in millimetres, and the 16-bit result of PEEK and PARSE (R26, R106). -/
abbrev Half := BitVec 16

/-- A line rate in baud, the 32-bit operand of BEGIN (R103). -/
abbrev Rate := BitVec 32

/-- A reference to a host buffer: the address of its byte 0 in host memory
(R64 'the buffer's base plus k'; the width is a DESIGN CHOICE, log entry 4). -/
abbrev Ref := BitVec 32

end Sys2Proof
end

