-- ==== Sys2Proof/Config.lean ====
section
/-! DEFINITION. The implementation parameters of R3, the codes of R24 and R25, and the FREE VALUES: constants without a
body that stand for what the environment supplies (R263 'Peripheral answers are draws', R40 'Each sample is a draw of the
model') or for what the spec leaves OPEN. Nothing in Lean can evaluate a free value. -/

namespace Sys2Proof.Config

/-! ## Parameters with a value (R3) -/

/-- The number of channels. -/
abbrev nChan : Nat := 4

/-- The number of baud codes, 0..9. -/
abbrev nBaud : Nat := 10

/-- The code an unrecognised rate selects: 9600 baud (R177). -/
abbrev defaultBaudCode : Byte := 3

/-- The settling wait after a set-baud bracket, in ms: a lower bound (R136, R259). -/
abbrev settleMs : Nat := 20

/-- The least spacing of READDIST attempts, in ms (R202). -/
abbrev minIntervalMs : Clock := 100

/-- A sensor frame has 4 bytes (R107). -/
abbrev frameLen : Byte := 4

/-- The first byte of a sensor frame (R107). -/
abbrev header : Byte := 0xFF

/-- The least decoded distance, in mm (R109). -/
abbrev minDistMm : Half := 30

/-- The byte sent in an exchange made only to receive (R122). -/
abbrev fill : Byte := 0x00

/-- What PEEK and PARSE answer (R178, R179). -/
abbrev notAvailable : Half := 0xFFFF

/-! ## Status and result codes (R24, R25) -/

abbrev stNone : Code := 0
abbrev stReadOk : Code := 1
abbrev stFrameTooShort : Code := 2
abbrev stHeaderNotFound : Code := 3
abbrev stIncompleteFrame : Code := 4

abbrev resNone : Code := 0
abbrev resSuccess : Code := 1
abbrev resChecksumMismatch : Code := 2
abbrev resHeaderNotFound : Code := 3
abbrev resIncompleteFrame : Code := 4

/-! ## OPEN parameters (R3): constants of the machine whose value no source gives -/

/-- `MODE_AT_RESET`: the mode and the mode-select line right after reset (R34, I12; log entry 9). -/
opaque modeAtReset : Bool

/-- `BAUD8_RATE`: the line rate of baud code 8 (R96, I2; log entry 15). -/
opaque baud8Rate : Rate

/-- `BAUD9_RATE`: the line rate of baud code 9 (R96, I2; log entry 15). -/
opaque baud9Rate : Rate

/-- `SPI_MODE`: no rule reads it (R4, I14). -/
opaque spiMode : Nat

/-- `SPI_HZ`: no rule reads it (R4, I14). -/
opaque spiHz : Nat

/-- `PERIPH_QCAP`: the capacity of each peripheral queue right after reset; only the
reference peripheral reads it (R3, R4, R264; log entry 12). -/
opaque periphQcap : Nat

/-! ## Free values of the reset state (log entries 10, 11, 12) -/

/-- `settle_t0` after reset: 'unspecified (any value; never read in IDLE)' (R34). -/
opaque settleT0AtReset : Clock

/-- What the external clock reads when the block is created (R282: the block's reset does not reset the clock). -/
opaque clockAtReset : Clock

/-- The bytes waiting in receive queue `c` when the block is created (R282). -/
opaque rqAtReset : Nat → List Byte

/-- The bytes waiting in transmit queue `c` when the block is created (R282). -/
opaque tqAtReset : Nat → List Byte

/-- The baud code channel `c` keeps in its non-volatile configuration when the block is created (R42). -/
opaque baudAtReset : Nat → Fin 10

/-! ## Free values of a run: each is applied to the counter `State.draws`, which every draw advances -/

/-- The byte the peripheral answers where the spec does not fix it: a depth, a byte received from an empty queue,
the byte returned while the block sends (R122, R137, R263; log entries 5, 6). -/
opaque freeByte : Nat → Byte

/-- By how many ms the clock has moved when the block samples it (R40 'any amount less than 2^CLOCK_W'; log entry 7). -/
opaque freeAdvance : Nat → Clock

/-- The bytes that arrived on channel `c`'s line since the last bracket (R263; log entry 5). -/
opaque freeArrivals : Nat → Nat → List Byte

/-- How many bytes left channel `c`'s transmit queue since the last bracket (R263; log entry 5). -/
opaque freeDepartures : Nat → Nat → Nat

/-- Whether channel `c`'s receive queue overflows as bytes arrive, and what it then holds: `none` where it takes them (I11
'any value'; log entry 18). -/
opaque freeRxOverflow : Nat → Nat → Option (List Byte)

/-- Whether a transmit queue overflows as a byte is sent, and what it then holds: `none` where it takes the byte (I11 'any
value'; log entry 18). -/
opaque freeTxOverflow : Nat → Option (List Byte)

/-- Which of several waiting requesters the arbiter grants next (R268 'a model leaves the order open'; log entry 8). -/
opaque freeGrant : Nat → Nat

end Sys2Proof.Config
end

