-- ==== Sys2Proof/Syntax.lean ====
section
/-! DEFINITION. The instructions: one constructor for every row of spec/opcode_table.json, the 5 wire commands
(R124 to R128) and the 23 host operations (R101). -/

namespace Sys2Proof

/-- The two encoding layers (30_encoding.md, introduction). Their operation codes overlap, so a request says which
layer its bytes belong to. -/
inductive Layer where
  /-- the wire layer: the bytes the block sends in one bracket (R90 to R98) -/
  | wire
  /-- the host layer: an operation code and its operands (R100 to R103) -/
  | host
  deriving DecidableEq, Repr

inductive Instr where
  -- wire commands: the complete bracket for one opcode (41_bridge.md section 2)
  /-- CMD_QRD, opcode 0x1: query receive depth of channel `cc` (R124) -/
  | cmdQrd (cc : Chan)
  /-- CMD_RX, opcode 0x2: receive `len` bytes from channel `cc` (R126) -/
  | cmdRx (cc : Chan) (len : Byte)
  /-- CMD_QTD, opcode 0x3: query transmit depth of channel `cc` (R125) -/
  | cmdQtd (cc : Chan)
  /-- CMD_TX, opcode 0x4: transmit the payload bytes on channel `cc` (R127) -/
  | cmdTx (cc : Chan) (payload : List Byte)
  /-- CMD_BAUD, opcode 0x8: set channel `cc` to a baud code (R128) -/
  | cmdBaud (cc : Chan) (code : Byte)
  -- bridge operations (41_bridge.md section 3)
  | qrd (c : Byte)
  | qtd (c : Byte)
  | rxb (c : Byte)
  | rxn (c : Byte) (len : Byte) (dst : Ref)
  | txb (c : Byte) (v : Byte)
  | txn (c : Byte) (len : Byte) (src : Ref)
  | setBaud (c : Byte) (code : Byte)
  -- Channel View operations (42_channel_view.md)
  | avail (k : Byte)
  | read (k : Byte)
  | readn (k : Byte) (len : Byte) (dst : Ref)
  | write (k : Byte) (v : Byte)
  | writen (k : Byte) (len : Byte) (src : Ref)
  | beginRate (k : Byte) (rate : Rate)
  | peek (k : Byte)
  | parse (k : Byte)
  -- sensor session operations (43_sensor_session.md)
  | readDist
  | setProc (b : Bool)
  | getDist
  | getLr
  | getLs
  | getStat
  | getRes
  | getMode
  deriving DecidableEq, Repr

/-- The encoding layer of an instruction: the opcode table's format column, WIRE8 or HOSTOP. -/
def Instr.layer : Instr → Layer
  | .cmdQrd _ | .cmdRx _ _ | .cmdQtd _ | .cmdTx _ _ | .cmdBaud _ _ => .wire
  | .qrd _ | .qtd _ | .rxb _ | .rxn _ _ _ | .txb _ _ | .txn _ _ _ | .setBaud _ _ => .host
  | .avail _ | .read _ | .readn _ _ _ | .write _ _ | .writen _ _ _ | .beginRate _ _ | .peek _ | .parse _ => .host
  | .readDist | .setProc _ | .getDist | .getLr | .getLs | .getStat | .getRes | .getMode => .host

end Sys2Proof
end

