-- ==== Sys2Proof/WellFormed.lean ====
section
/-! DEFINITION. The operand values an instruction admits (R103, R94, R95). The widths stand in the types; two operands of
the wire layer admit fewer values than their type. That a view index is below NVIEW and that a host buffer is long enough
are facts about the state, not about the instruction. -/

namespace Sys2Proof

/-- A transmit payload is counted by one byte, so it has 0..255 bytes (R94, R67); a baud code on the wire is 0..9 (R95, R128). -/
def Instr.wellFormed : Instr → Bool
  | .cmdTx _ payload => decide (payload.length ≤ 255)
  | .cmdBaud _ code => decide (code.toNat < Config.nBaud)
  | .cmdQrd _ | .cmdRx _ _ | .cmdQtd _ => true
  | .qrd _ | .qtd _ | .rxb _ | .rxn _ _ _ | .txb _ _ | .txn _ _ _ | .setBaud _ _ => true
  | .avail _ | .read _ | .readn _ _ _ | .write _ _ | .writen _ _ _ | .beginRate _ _ | .peek _ | .parse _ => true
  | .readDist | .setProc _ | .getDist | .getLr | .getLs | .getStat | .getRes | .getMode => true

end Sys2Proof
end

