-- ==== Sys2Proof/Decode.lean ====
section
/-! DEFINITION. The decoders of the two encoding layers, total on any bytes and rejecting by name, and after them the
encoder, written from the same tables (30_encoding.md). -/

namespace Sys2Proof

/-! ## The wire command byte -/

/-- The values of the command decoder (R98). -/
inductive Cmd where
  | qrd (cc : Chan)
  | rx (cc : Chan)
  | qtd (cc : Chan)
  | tx (cc : Chan)
  | baud (cc : Chan)
  | invalid
  deriving DecidableEq, Repr

/-- `decode_cmd` (R98): bits 7:4 the opcode, bits 3:2 zero, bits 1:0 the channel (R90). -/
def decodeCmd (b : Byte) : Cmd :=
  let cc : Chan := b.extractLsb' 0 2
  let z : BitVec 2 := b.extractLsb' 2 2
  let opc : BitVec 4 := b.extractLsb' 4 4
  if z ≠ 0 then .invalid
  else if opc = 0x1 then .qrd cc
  else if opc = 0x2 then .rx cc
  else if opc = 0x3 then .qtd cc
  else if opc = 0x4 then .tx cc
  else if opc = 0x8 then .baud cc
  else .invalid

/-- The command byte `(opc << 4) | c[1:0]` (R92). -/
def cmdByte (opc : BitVec 4) (cc : Chan) : Byte :=
  (opc.zeroExtend 8 <<< 4) ||| cc.zeroExtend 8

/-! ## Rejections -/

/-- Why bytes are no instruction. -/
inductive DecodeError where
  /-- the host operation code is not assigned (R102) -/
  | unassignedOp (op : Byte)
  /-- the first byte of a bracket is no command (R97, R98) -/
  | invalidCommand (b : Byte)
  /-- a set-baud bracket with a code of 10 or more, which the block never sends (R95) -/
  | reservedBaudCode (code : Byte)
  /-- an exchange made only to receive sends FILL, and this byte is not FILL (R93, R122) -/
  | notFill
  /-- the operand of SETPROC is 1 bit wide: 0 or 1 (R103; log entry 3) -/
  | modeOperand (b : Byte)
  /-- the bytes end before the instruction's last operand (R100, R93) -/
  | truncated
  deriving DecidableEq, Repr

/-- An instruction and the bytes after it, or a named rejection. -/
abbrev Decoded := Except DecodeError (Instr × List Byte)

/-! ## The wire layer: the bytes the block sends in one bracket (R93) -/

def decodeWire : List Byte → Decoded
  | [] => .error .truncated
  | b :: rest =>
    match decodeCmd b with
    | .invalid => .error (.invalidCommand b)
    | .qrd cc =>
      match rest with
      | [] => .error .truncated
      | m :: rest' => if m = Config.fill then .ok (.cmdQrd cc, rest') else .error .notFill
    | .qtd cc =>
      match rest with
      | [] => .error .truncated
      | m :: rest' => if m = Config.fill then .ok (.cmdQtd cc, rest') else .error .notFill
    | .rx cc =>
      match rest with
      | [] => .error .truncated
      | len :: rest' =>
        if (rest'.take len.toNat).length < len.toNat then .error .truncated
        else if rest'.take len.toNat = List.replicate len.toNat Config.fill then
          .ok (.cmdRx cc len, rest'.drop len.toNat)
        else .error .notFill
    | .tx cc =>
      match rest with
      | [] => .error .truncated
      | len :: rest' =>
        if (rest'.take len.toNat).length < len.toNat then .error .truncated
        else .ok (.cmdTx cc (rest'.take len.toNat), rest'.drop len.toNat)
    | .baud cc =>
      match rest with
      | [] => .error .truncated
      | code :: rest' =>
        if code.toNat < Config.nBaud then .ok (.cmdBaud cc code, rest') else .error (.reservedBaudCode code)

/-! ## The host layer: an operation code and its operands (R100, R101, R103) -/

/-- A 32-bit operand from its four bytes, most significant first (log entry 3). -/
def word32 (b3 b2 b1 b0 : Byte) : BitVec 32 := b3 ++ b2 ++ b1 ++ b0

/-- The four bytes of a 32-bit operand, most significant first (log entry 3). -/
def bytes32 (w : BitVec 32) : List Byte :=
  [w.extractLsb' 24 8, w.extractLsb' 16 8, w.extractLsb' 8 8, w.extractLsb' 0 8]

/-- One byte operand. -/
def operand1 (f : Byte → Instr) : List Byte → Decoded
  | a :: rest => .ok (f a, rest)
  | _ => .error .truncated

/-- Two byte operands. -/
def operand2 (f : Byte → Byte → Instr) : List Byte → Decoded
  | a :: b :: rest => .ok (f a b, rest)
  | _ => .error .truncated

/-- Two byte operands and a buffer reference. -/
def operandBuf (f : Byte → Byte → Ref → Instr) : List Byte → Decoded
  | a :: b :: b3 :: b2 :: b1 :: b0 :: rest => .ok (f a b (word32 b3 b2 b1 b0), rest)
  | _ => .error .truncated

/-- A byte operand and a 32-bit rate. -/
def operandRate (f : Byte → Rate → Instr) : List Byte → Decoded
  | a :: b3 :: b2 :: b1 :: b0 :: rest => .ok (f a (word32 b3 b2 b1 b0), rest)
  | _ => .error .truncated

/-- The 1-bit mode operand, carried by one byte 0 or 1. -/
def operandMode (f : Bool → Instr) : List Byte → Decoded
  | b :: rest => if b = 0 then .ok (f false, rest) else if b = 1 then .ok (f true, rest) else .error (.modeOperand b)
  | _ => .error .truncated

/-- The operands of the operation with code `op` (R101); every other code is refused (R102). -/
def decodeOperands (op : Byte) (rest : List Byte) : Decoded :=
  match op.toNat with
  | 0x01 => operand1 .qrd rest
  | 0x02 => operand1 .qtd rest
  | 0x03 => operand1 .rxb rest
  | 0x04 => operandBuf .rxn rest
  | 0x05 => operand2 .txb rest
  | 0x06 => operandBuf .txn rest
  | 0x07 => operand2 .setBaud rest
  | 0x10 => operand1 .avail rest
  | 0x11 => operand1 .read rest
  | 0x12 => operandBuf .readn rest
  | 0x13 => operand2 .write rest
  | 0x14 => operandBuf .writen rest
  | 0x15 => operandRate .beginRate rest
  | 0x16 => operand1 .peek rest
  | 0x17 => operand1 .parse rest
  | 0x20 => .ok (.readDist, rest)
  | 0x21 => operandMode .setProc rest
  | 0x22 => .ok (.getDist, rest)
  | 0x23 => .ok (.getLr, rest)
  | 0x24 => .ok (.getLs, rest)
  | 0x25 => .ok (.getStat, rest)
  | 0x26 => .ok (.getRes, rest)
  | 0x27 => .ok (.getMode, rest)
  | _ => .error (.unassignedOp op)

def decodeHost : List Byte → Decoded
  | [] => .error .truncated
  | op :: rest => decodeOperands op rest

/-- The decoder: the bytes of one layer. -/
def decode : Layer → List Byte → Decoded
  | .wire, bs => decodeWire bs
  | .host, bs => decodeHost bs

/-! ## The encoder -/

/-- The host operation codes (R101). The wire commands have none: their first byte is a command byte. -/
def hostOpCode : Instr → Option Byte
  | .cmdQrd _ | .cmdRx _ _ | .cmdQtd _ | .cmdTx _ _ | .cmdBaud _ _ => none
  | .qrd _ => some 0x01
  | .qtd _ => some 0x02
  | .rxb _ => some 0x03
  | .rxn _ _ _ => some 0x04
  | .txb _ _ => some 0x05
  | .txn _ _ _ => some 0x06
  | .setBaud _ _ => some 0x07
  | .avail _ => some 0x10
  | .read _ => some 0x11
  | .readn _ _ _ => some 0x12
  | .write _ _ => some 0x13
  | .writen _ _ _ => some 0x14
  | .beginRate _ _ => some 0x15
  | .peek _ => some 0x16
  | .parse _ => some 0x17
  | .readDist => some 0x20
  | .setProc _ => some 0x21
  | .getDist => some 0x22
  | .getLr => some 0x23
  | .getLs => some 0x24
  | .getStat => some 0x25
  | .getRes => some 0x26
  | .getMode => some 0x27

/-- The bytes after the operation code, or the whole bracket of a wire command (R93, R101). -/
def encodeTail : Instr → List Byte
  | .cmdQrd cc => [cmdByte 0x1#4 cc, Config.fill]
  | .cmdQtd cc => [cmdByte 0x3#4 cc, Config.fill]
  | .cmdRx cc len => cmdByte 0x2#4 cc :: len :: List.replicate len.toNat Config.fill
  | .cmdTx cc payload => cmdByte 0x4#4 cc :: BitVec.ofNat 8 payload.length :: payload
  | .cmdBaud cc code => [cmdByte 0x8#4 cc, code]
  | .qrd c | .qtd c | .rxb c => [c]
  | .rxn c len dst => c :: len :: bytes32 dst
  | .txb c v => [c, v]
  | .txn c len src => c :: len :: bytes32 src
  | .setBaud c code => [c, code]
  | .avail k | .read k | .peek k | .parse k => [k]
  | .readn k len dst => k :: len :: bytes32 dst
  | .write k v => [k, v]
  | .writen k len src => k :: len :: bytes32 src
  | .beginRate k rate => k :: bytes32 rate
  | .setProc b => [if b then 1 else 0]
  | .readDist | .getDist | .getLr | .getLs | .getStat | .getRes | .getMode => []

/-- The bytes of a well-formed instruction in its layer. -/
def encode (i : Instr) : List Byte :=
  match hostOpCode i with
  | some op => op :: encodeTail i
  | none => encodeTail i

/-! ## Words numbered as spec/opcode_table.json numbers them -/

/-- The longest instruction: a transmit bracket of 2 + 255 bytes (R93 'never holds more than 257 exchanges'). -/
def maxInstrBytes : Nat := 257

/-- The first `n` bytes of the number `w`, the least significant byte first. -/
def wordBytes : Nat → Nat → List Byte
  | 0, _ => []
  | n + 1, w => BitVec.ofNat 8 w :: wordBytes n (w / 256)

/-- The bytes of a table word: its `nbits` bits, and zeros above them. -/
def tableBytes (nbits w : Nat) : List Byte := wordBytes maxInstrBytes (w % 2 ^ nbits)

/-- The layer a table word is read in: the host layer where its first byte is a host operation code, the wire layer
where it is not. The two layers share the bytes 0x10..0x13 and 0x20..0x23 (log entry 2). -/
def tableLayer (bs : List Byte) : Layer :=
  match decodeHost bs with
  | .error (.unassignedOp _) => .wire
  | _ => .host

/-- The instruction the decoder reads from a table word. -/
def decodeTableWord (nbits w : Nat) : Option Instr :=
  match decode (tableLayer (tableBytes nbits w)) (tableBytes nbits w) with
  | .ok (i, _) => some i
  | .error _ => none

end Sys2Proof
end

