-- ==== Sys2Proof/Machine/State.lean ====
section
/-! DEFINITION. The state: the registers of the block (R22, R24 to R29), its configuration (R31, R32), the external state
its rules read or write (R40 to R45), the host interface (R266) and the observable history (R6). Plain data throughout. -/

namespace Sys2Proof.Machine

/-! ## Host memory -/

/-- The bytes of the host's buffers: addresses strictly rising, no entry equal to 0x00, which is what an unlisted address
reads as (log entry 4). -/
abbrev Memory := List Host.Cell

/-- What an address that no entry lists reads as (log entry 4). -/
def Memory.unlisted : Byte := 0x00

/-- The canonical form. -/
def Memory.wf : Memory → Bool
  | [] => true
  | cell :: rest =>
    (cell.2 != Memory.unlisted) && rest.all (fun later => decide (cell.1 < later.1)) && Memory.wf rest

/-- A host buffer: the address of its byte 0 and how many bytes it has (R45, R64). -/
structure HostBuffer where
  base : Ref
  size : Nat
  deriving DecidableEq, Repr

/-! ## The bridge controller -/

/-- `bstate` (R22). -/
inductive BState where
  /-- no operation in progress -/
  | idle
  /-- a bracket is open -/
  | bracket
  /-- a set-baud settling delay is running -/
  | settle
  deriving DecidableEq, Repr

/-! ## The bus -/

/-- Which queue of a channel a command concerns (R41). -/
inductive Queue where
  | rx
  | tx
  deriving DecidableEq, Repr, Inhabited

/-- Where the exchanges of a bracket stand (R93): the peripheral tells payload from command by position (R133). -/
inductive Phase where
  /-- not selected -/
  | off
  /-- selected: the next exchange carries the command byte -/
  | command
  /-- the next exchange answers the depth of a queue -/
  | depth (q : Queue) (cc : Chan)
  /-- the next exchange carries the length byte of a receive (`rx`) or a transmit (`tx`) -/
  | length (q : Queue) (cc : Chan)
  /-- `n` exchanges remain that answer received bytes -/
  | receive (cc : Chan) (n : Nat)
  /-- `n` exchanges remain that carry payload bytes -/
  | transmit (cc : Chan) (n : Nat)
  /-- the next exchange carries the baud code byte -/
  | baud (cc : Chan)
  /-- every exchange of the bracket is done; `settles` after a set-baud bracket -/
  | complete (settles : Bool)
  /-- the exchanges have no shape of R93 -/
  | invalid
  deriving DecidableEq, Repr, Inhabited

/-- One event of the transcript (R9, R10). -/
inductive Event where
  | sel
  | desel
  | xfer (m s : Byte)
  | wait (n : Nat)
  | mode (lvl : Bool)
  deriving DecidableEq, Repr

/-! ## The external multi-UART peripheral (R41, R42) -/

/-- One channel: its receive queue RQ, its transmit queue TQ (oldest byte first) and its baud code BAUD. -/
structure Channel where
  rq : List Byte
  tq : List Byte
  baud : Fin 10
  deriving DecidableEq, Repr, Inhabited

/-- The peripheral: four channels, its place in the open bracket, and the capacity `PERIPH_QCAP` of each queue (R3, R264). -/
structure Peripheral where
  c0 : Channel
  c1 : Channel
  c2 : Channel
  c3 : Channel
  phase : Phase
  qcap : Nat
  deriving DecidableEq, Repr, Inhabited

/-- Which environment the block runs in: the general one, whose answers, arrivals and clock are draws (R40, R263), or the
informative reference peripheral and clock of R264 and 95_test_vectors.md section 0 (log entry 6). -/
inductive Environment where
  | general
  | reference
  deriving DecidableEq, Repr, Inhabited

/-! ## The host interface -/

/-- One request a requester presents: the bytes of an operation and the layer they belong to (R100, R266). -/
structure Request where
  layer : Layer
  bytes : List Byte
  deriving DecidableEq, Repr

/-- The result an operation returns (R106). `bytes` is what a receive bracket run on its own keeps (R126). -/
inductive Result where
  | nothing
  | byte (b : Byte)
  | bytes (bs : List Byte)
  | half (v : Half)
  | code (v : Code)
  | stamp (t : Clock)
  | bit (b : Bool)
  deriving DecidableEq, Repr

/-- A result handed to the requester on a port. -/
structure Reply where
  port : Nat
  result : Result
  deriving DecidableEq, Repr

/-- Where the sensor session stands: no READDIST in progress, or one whose header scan (R204) still runs and whose clock
sample was `now` (R266 'a READDIST ... not yet returned'; log entry 13). -/
inductive Session where
  | idle
  | scanning (now : Clock)
  deriving DecidableEq, Repr

/-! ## The state -/

structure State where
  -- bridge controller registers (R22)
  sel : Bool
  bstate : BState
  settleT0 : Clock
  -- sensor session registers (R24 to R29)
  status : Code
  result : Code
  distance : Half
  mode : Bool
  lastReadMs : Clock
  lastSuccessMs : Clock
  -- the mode-select output line (R44)
  modeLine : Bool
  -- the session's progress (R266)
  session : Session
  -- configuration, never written (R31, R32)
  viewChan : List Byte
  sessView : Byte
  -- external state (R40 to R42, R45)
  clock : Clock
  periph : Peripheral
  mem : Memory
  buffers : List HostBuffer
  -- host interface: one queue of waiting requests a requester, and the requester granted last (R266, R268)
  ports : List (List Request)
  grant : Nat
  -- observable history (R6): the transcript and the returned results, oldest first
  transcript : List Event
  returned : List Reply
  -- the model's own: which environment, and how many draws it has made
  env : Environment
  draws : Nat
  deriving DecidableEq, Repr

/-- The external state a block is created with, and its configuration (R280, R282, R284 step 1). -/
structure Setup where
  viewChan : List Byte
  sessView : Byte
  clock : Clock
  periph : Peripheral
  mem : Memory
  buffers : List HostBuffer
  env : Environment
  deriving DecidableEq, Repr

/-- The block right after the one reset, applied when it is created with its configuration (R280): every register at the
value of R34, no transcript event, the peripheral, the clock and the configuration as they were (R282). -/
def State.created (u : Setup) : State where
  sel := false
  bstate := .idle
  settleT0 := Config.settleT0AtReset
  status := Config.stNone
  result := Config.resNone
  distance := 0
  mode := Config.modeAtReset
  lastReadMs := 0
  lastSuccessMs := 0
  modeLine := Config.modeAtReset
  session := .idle
  viewChan := u.viewChan
  sessView := u.sessView
  clock := u.clock
  periph := u.periph
  mem := u.mem
  buffers := u.buffers
  ports := []
  grant := 0
  transcript := []
  returned := []
  env := u.env
  draws := 0

/-- Channel `c` of the peripheral when the block is created: free values (R42, R282; log entry 12). -/
def Channel.atReset (c : Nat) : Channel where
  rq := Config.rqAtReset c
  tq := Config.tqAtReset c
  baud := Config.baudAtReset c

/-- The peripheral when the block is created: not selected, its queues and baud codes free (R42, R282; log entry 12). -/
def Peripheral.atReset : Peripheral where
  c0 := Channel.atReset 0
  c1 := Channel.atReset 1
  c2 := Channel.atReset 2
  c3 := Channel.atReset 3
  phase := .off
  qcap := Config.periphQcap

/-- The configuration of 95_test_vectors.md section 0: four views, view k on channel k, the session on view 2 (log entry 14). -/
def Setup.standard : Setup where
  viewChan := [0, 1, 2, 3]
  sessView := 2
  clock := Config.clockAtReset
  periph := Peripheral.atReset
  mem := []
  buffers := []
  env := .general

/-- The machine right after reset (R34, R281). -/
def State.reset : State := State.created Setup.standard

/-! ## Reasons to stop -/

/-- Why the machine stops. The block has no exception mechanism (R250): a fault here is the machine's hang. -/
inductive Fault where
  /-- Raised by `step` on a state whose bracket is open between two steps: an exchange that never returned
  (R271 'a hang of the operation (no further step of the block)'). No run of the model reaches such a state.
  Safe: the model stops where the block does. -/
  | stalledTransport
  deriving DecidableEq, Repr

/-- Why a request has no meaning. In each case the block performs no bus event and changes no register (R102). -/
inductive Refusal where
  /-- Raised by `exec` for an instruction that has no meaning yet. Safe: a model that refuses proves nothing about it. -/
  | notModelled (mnemonic : String)
  /-- Raised by `step` for a request whose bytes are no instruction of their layer: an unassigned host operation code
  (R102), a byte that is no command (R97, I6), missing operands. Safe: the spec itself refuses it. -/
  | undecodable (e : DecodeError)
  /-- Raised by `step` for a request with bytes after its instruction: it is no host operation (R100). Safe: the spec
  gives such a request no meaning (log entry 3). -/
  | trailingBytes (n : Nat)
  /-- Raised by every view operation whose view index is NVIEW or more (R102, R170). Safe: the spec itself refuses it. -/
  | noSuchView (k : Byte)
  /-- Raised by RXN, TXN, READN and WRITEN for a host buffer shorter than `len` (R64). Safe: the spec itself refuses it. -/
  | bufferTooShort (ref : Ref) (len : Byte)
  /-- Raised by READDIST where the configuration gives the session no view, which R32 excludes. Safe: no block is
  configured so. -/
  | sessionUnbound (k : Byte)
  /-- Raised by CMD_TX with a payload of more than 255 bytes (R67, R94). The decoder makes no such instruction.
  Safe: the length byte cannot carry it. -/
  | payloadTooLong (n : Nat)
  /-- Raised by CMD_BAUD with a code of 10 or more (R95, R128). The decoder makes no such instruction.
  Safe: such a bracket is never formed. -/
  | reservedBaudCode (code : Byte)
  deriving DecidableEq, Repr

end Sys2Proof.Machine
end

