-- ==== Sys2Proof/Machine/Flags.lean ====
section
/-! DEFINITION. The block has no condition codes (R33); its outcome computations stand here: the throttle's elapsed time
(R202, R219), the frame checksum (R108, R218), the decoded distance (R63, R109). -/

namespace Sys2Proof.Machine

/-- Elapsed time: the unsigned difference modulo 2^CLOCK_W (R219). -/
def elapsed (now since : Clock) : Clock := now - since

/-- The throttle: `elapsed < MIN_INTERVAL_MS` (R202). -/
def throttled (now lastRead : Clock) : Bool := decide (elapsed now lastRead < Config.minIntervalMs)

/-- The checksum of a frame: `(HEADER + hi + lo) mod 256`, formed in 10 bits and reduced (R108, R218). -/
def frameChecksum (hi lo : Byte) : Byte :=
  (Config.header.zeroExtend 10 + hi.zeroExtend 10 + lo.zeroExtend 10).extractLsb' 0 8

/-- The raw distance `{hi, lo}`, big-endian (R63, R109). -/
def rawDistance (hi lo : Byte) : Half := (hi.zeroExtend 16 <<< 8) ||| lo.zeroExtend 16

/-- The decoded distance `max(30, {hi, lo})` (R109, R208). -/
def decodedDistance (hi lo : Byte) : Half :=
  if rawDistance hi lo < Config.minDistMm then Config.minDistMm else rawDistance hi lo

end Sys2Proof.Machine
end

