-- ==== Sys2Proof/Machine/Operands.lean ====
section
/-! DEFINITION. The operand forms: channel index (R61, R103, R120), view index (R31, R102), line rate (R96, R177), host
buffer reference (R45, R64), and the bit order of a byte on the wire (R62). -/

namespace Sys2Proof.Machine

/-- The channel a channel operand addresses: 0..3; an index of 4 or more addresses nothing (R61, R120). -/
def channel? (c : Byte) : Option Chan := if c.toNat < Config.nChan then some (c.extractLsb' 0 2) else none

/-- The channel operand view `k` stands for: `view_chan[k]`, none where `k` is NVIEW or more (R31, R102). -/
def viewChannel? (s : State) (k : Byte) : Option Byte := s.viewChan[k.toNat]?

/-- `rate2code` (R177): an exact match, and the default code for every other rate. -/
def rate2code (rate : Rate) : Byte :=
  if rate = 1200 then 0
  else if rate = 2400 then 1
  else if rate = 4800 then 2
  else if rate = 9600 then 3
  else if rate = 19200 then 4
  else if rate = 38400 then 5
  else if rate = 57600 then 6
  else if rate = 115200 then 7
  else Config.defaultBaudCode

/-- The line rate of a baud code (R96); the rates of codes 8 and 9 are OPEN. -/
def lineRate (code : Fin 10) : Rate :=
  match code with
  | 0 => 1200
  | 1 => 2400
  | 2 => 4800
  | 3 => 9600
  | 4 => 19200
  | 5 => 38400
  | 6 => 57600
  | 7 => 115200
  | 8 => Config.baud8Rate
  | 9 => Config.baud9Rate

/-- The size of the host buffer a reference names (R64). DESIGN CHOICE, log entry 4: a reference that names no listed buffer has
no bytes, and one that names several, listed with the same base, has the size of the first of them listed. -/
def bufferSize (s : State) (ref : Ref) : Nat :=
  match s.buffers.find? (fun buf => buf.base == ref) with
  | some buf => buf.size
  | none => 0

/-- Whether the host buffer holds at least `len` bytes (R64, R103). -/
def bufferHolds (s : State) (ref : Ref) (len : Byte) : Bool := decide (len.toNat ≤ bufferSize s ref)

/-- The address of byte `k` of a host buffer: 'the buffer's base plus k' (R64). -/
def bufferAddr (ref : Ref) (k : Nat) : Nat := ref.toNat + k

/-- The bits of a byte in the order they are shifted on the wire: bit 7 first (R62). -/
def wireBits (b : Byte) : List Bool := (List.range 8).map (fun k => b.getLsbD (7 - k))

/-- The byte made of eight bits received in wire order: the first bit received is bit 7 (R62). -/
def byteOfWireBits (bits : List Bool) : Byte := bits.foldl (fun acc b => (acc <<< 1) ||| (if b then 1 else 0)) 0

/-- The bits the block sends in a transcript, in the order they leave it (R62). -/
def sentBits : List Event → List Bool
  | [] => []
  | .xfer m _ :: rest => wireBits m ++ sentBits rest
  | _ :: rest => sentBits rest

/-- The bits the block receives in a transcript, in the order they come in (R62). -/
def receivedBits : List Event → List Bool
  | [] => []
  | .xfer _ s :: rest => wireBits s ++ receivedBits rest
  | _ :: rest => receivedBits rest

end Sys2Proof.Machine
end

