-- ==== Sys2Proof/Machine/Peripheral.lean ====
section
/-! DEFINITION. The environment's side of the bus: what the external multi-UART peripheral answers in an exchange and what
the exchange does to its queues (R124 to R128, R137, R263), the lines' activity between two brackets (R263), and the
informative reference peripheral (R264). The peripheral reads a bracket by position (R93, R133). -/

namespace Sys2Proof.Machine

/-! ## The shape of a bracket (R93) -/

/-- The phase where `n` exchanges remain that answer received bytes. DEDUCED, log entry 19: with a length byte of 0x00 the
bracket is complete at once and the receive queue stays, which is R126 and R68 at `len` = 0 ('removes `len` bytes'); I9 of
93_implementation_defined.md says 'any value' of the peripheral's side there. -/
def Phase.receiving (cc : Chan) (n : Nat) : Phase := if n = 0 then .complete false else .receive cc n

/-- The phase where `n` payload exchanges remain to be sent. DEDUCED, log entry 19: with a length byte of 0x00 the bracket is
complete at once and the transmit queue stays, which is R127 and R68 at `len` = 0 ('appends `len` bytes'); I9 of
93_implementation_defined.md says 'any value' of the peripheral's side there. -/
def Phase.transmitting (cc : Chan) (n : Nat) : Phase := if n = 0 then .complete false else .transmit cc n

/-- The phase after an exchange in which the block sends `m` (R93, R98). -/
def Phase.next (p : Phase) (m : Byte) : Phase :=
  match p with
  | .off => .off
  | .command =>
    match decodeCmd m with
    | .qrd cc => .depth .rx cc
    | .qtd cc => .depth .tx cc
    | .rx cc => .length .rx cc
    | .tx cc => .length .tx cc
    | .baud cc => .baud cc
    | .invalid => .invalid
  | .depth _ _ => .complete false
  | .length .rx cc => Phase.receiving cc m.toNat
  | .length .tx cc => Phase.transmitting cc m.toNat
  | .receive cc n => Phase.receiving cc (n - 1)
  | .transmit cc n => Phase.transmitting cc (n - 1)
  | .baud _ => .complete true
  | .complete _ => .invalid
  | .invalid => .invalid

/-! ## The four channels -/

def Peripheral.get (p : Peripheral) (cc : Chan) : Channel :=
  if cc = 0 then p.c0 else if cc = 1 then p.c1 else if cc = 2 then p.c2 else p.c3

def Peripheral.set (p : Peripheral) (cc : Chan) (ch : Channel) : Peripheral :=
  if cc = 0 then { p with c0 := ch }
  else if cc = 1 then { p with c1 := ch }
  else if cc = 2 then { p with c2 := ch }
  else { p with c3 := ch }

/-! ## Answers -/

/-- The byte the reference peripheral answers to a depth query: `min(|queue|, 255)` (R264). -/
def depthByte (queue : List Byte) : Byte := BitVec.ofNat 8 (min queue.length 255)

/-- The queue a depth query names (R124, R125). -/
def Channel.queue (ch : Channel) : Queue → List Byte
  | .rx => ch.rq
  | .tx => ch.tq

/-- A byte the spec does not fix: a draw in the general environment (R263), 0x00 from the reference peripheral (R264). -/
def openByte (env : Environment) (d : Nat) : Byte :=
  match env with
  | .general => Config.freeByte d
  | .reference => 0x00

/-- The count answered to a depth query: a draw 0..255 (R263, I5), or the reference peripheral's (R264). -/
def depthAnswer (env : Environment) (d : Nat) (queue : List Byte) : Byte :=
  match env with
  | .general => Config.freeByte d
  | .reference => depthByte queue

/-- The received byte: the oldest byte of the queue while it holds any (R126), an open byte otherwise (R137). -/
def receiveAnswer (env : Environment) (d : Nat) (rq : List Byte) : Byte :=
  match rq with
  | b :: _ => b
  | [] => openByte env d

/-- The byte the peripheral returns in an exchange. What it returns while the block sends is open (R122). -/
def Peripheral.answer (p : Peripheral) (env : Environment) (d : Nat) : Byte :=
  match p.phase with
  | .depth q cc => depthAnswer env d ((p.get cc).queue q)
  | .receive cc _ => receiveAnswer env d (p.get cc).rq
  | _ => openByte env d

/-! ## Effects -/

/-- A transmit queue after one payload byte (R127). In the general environment no source bounds the queue
(91_not_in_source.md N10): whether it overflows, and what it then holds, is a draw (I11; log entry 18). The reference
peripheral alone reads `qcap` (PERIPH_QCAP): it drops a byte for which there is no room (R3, R4, R264). -/
def enqueue (env : Environment) (d qcap : Nat) (tq : List Byte) (m : Byte) : List Byte :=
  match env with
  | .general => (Config.freeTxOverflow d).getD (tq ++ [m])
  | .reference => if tq.length < qcap then tq ++ [m] else tq

/-- BAUD after a baud code byte: codes 0..9 are the only ones a bracket carries (R95, R128). -/
def setBaudCode (old : Fin 10) (code : Byte) : Fin 10 :=
  if h : code.toNat < 10 then ⟨code.toNat, h⟩ else old

/-- The queues and baud codes after an exchange in which the block sends `m`: a receive removes the byte it answered
(R126), a transmit appends its payload byte (R127), a set-baud writes BAUD (R128), a query changes nothing (R124, R125). -/
def Peripheral.effect (p : Peripheral) (env : Environment) (d : Nat) (m : Byte) : Peripheral :=
  match p.phase with
  | .receive cc _ => p.set cc { p.get cc with rq := (p.get cc).rq.tail }
  | .transmit cc _ => p.set cc { p.get cc with tq := enqueue env d p.qcap (p.get cc).tq m }
  | .baud cc => p.set cc { p.get cc with baud := setBaudCode (p.get cc).baud m }
  | _ => p

/-- The peripheral after an exchange. -/
def Peripheral.absorb (p : Peripheral) (env : Environment) (d : Nat) (m : Byte) : Peripheral :=
  { p.effect env d m with phase := p.phase.next m }

/-! ## Between two brackets -/

/-- Channel `c`'s receive queue after bytes have arrived on its line, any number of them (R263): they stand behind those that
waited, where the queue takes them. R41 fixes no capacity: whether the queue overflows, and what it then holds, is a draw
(I11; log entry 18). A queue to which nothing arrives stays. -/
def arrive (d c : Nat) (rq : List Byte) : List Byte :=
  match Config.freeArrivals d c with
  | [] => rq
  | b :: rest => (Config.freeRxOverflow d c).getD (rq ++ b :: rest)

/-- One channel after its line's activity: bytes have arrived and bytes have left, any number of each (R263). -/
def Channel.lineActivity (ch : Channel) (d c : Nat) : Channel :=
  { ch with rq := arrive d c ch.rq, tq := ch.tq.drop (Config.freeDepartures d c) }

/-- The peripheral after the activity of its lines since the last bracket (R263). At the reference peripheral nothing
arrives and nothing leaves (R264). -/
def Peripheral.lineActivity (p : Peripheral) (env : Environment) (d : Nat) : Peripheral :=
  match env with
  | .general =>
    { p with
      c0 := p.c0.lineActivity d 0
      c1 := p.c1.lineActivity d 1
      c2 := p.c2.lineActivity d 2
      c3 := p.c3.lineActivity d 3 }
  | .reference => p

/-- The peripheral as the select is asserted. -/
def Peripheral.selected (p : Peripheral) (env : Environment) (d : Nat) : Peripheral :=
  { p.lineActivity env d with phase := .command }

/-- The peripheral as the select is released. -/
def Peripheral.deselected (p : Peripheral) : Peripheral := { p with phase := .off }

/-- By how many ms the clock moves before a sample: a draw (R40); the reference clock stands still. -/
def clockAdvance (env : Environment) (d : Nat) : Clock :=
  match env with
  | .general => Config.freeAdvance d
  | .reference => 0

end Sys2Proof.Machine
end

