-- ==== Sys2Proof/Machine/Ops.lean ====
section
/-! DEFINITION. The shared operations: host memory (R11), the register writes (R8), the bus primitives (R9), the clock (R40),
the settling wait (R136) and the arbiter's grant (R123, R266, R268). The block takes no exception and has no return from
one (R250, R255), so there is no such operation. -/

namespace Sys2Proof.Machine

/-! ## Host memory -/

/-- One byte of host memory. -/
def Memory.read : Memory → Nat → Byte
  | [], _ => Memory.unlisted
  | cell :: rest, a => if cell.1 = a then cell.2 else Memory.read rest a

/-- Host memory with no entry for address `a`. -/
def Memory.erase : Memory → Nat → Memory
  | [], _ => []
  | cell :: rest, a => if cell.1 = a then Memory.erase rest a else cell :: Memory.erase rest a

/-- Host memory with an entry put in its place; `a` has no entry before. -/
def Memory.insert : Memory → Nat → Byte → Memory
  | [], a, v => [(a, v)]
  | cell :: rest, a, v => if a < cell.1 then (a, v) :: cell :: rest else cell :: Memory.insert rest a v

/-- Write one byte, keeping the canonical form. -/
def Memory.write (m : Memory) (a : Nat) (v : Byte) : Memory :=
  if v = Memory.unlisted then Memory.erase m a else Memory.insert (Memory.erase m a) a v

/-- `MemWrite(buf, k, 1, v_k)` for the bytes of a list in increasing index, from index `k` (R64, R65). -/
def writeBuffer (m : Memory) (ref : Ref) : Nat → List Byte → Memory
  | _, [] => m
  | k, v :: rest => writeBuffer (m.write (bufferAddr ref k) v) ref (k + 1) rest

/-- `MemRead(buf, k, 1)` for `n` bytes in increasing index, from index `k` (R64, R65). -/
def readBuffer (m : Memory) (ref : Ref) : Nat → Nat → List Byte
  | _, 0 => []
  | k, n + 1 => m.read (bufferAddr ref k) :: readBuffer m ref (k + 1) n

/-! ## Register writes and the observable history -/

def State.emit (s : State) (e : Event) : State := { s with transcript := s.transcript ++ [e] }

/-- Return a result to the granted requester. -/
def State.reply (s : State) (r : Result) : State := { s with returned := s.returned ++ [⟨s.grant, r⟩] }

/-- Count one draw. -/
def State.spend (s : State) : State := { s with draws := s.draws + 1 }

def State.setPeriph (s : State) (p : Peripheral) : State := { s with periph := p }

def State.setClock (s : State) (t : Clock) : State := { s with clock := t }

def State.setMem (s : State) (m : Memory) : State := { s with mem := m }

/-- `x[sel] <- b`, `x[bstate] <- b'`. -/
def State.setBridge (s : State) (b : Bool) (b' : BState) : State := { s with sel := b, bstate := b' }

def State.setSettle (s : State) (t0 : Clock) : State := { s with settleT0 := t0 }

def State.setSession (s : State) (x : Session) : State := { s with session := x }

/-- `x[status] <- st`, `x[result] <- res`. -/
def State.setOutcome (s : State) (st res : Code) : State := { s with status := st, result := res }

def State.setLastRead (s : State) (t : Clock) : State := { s with lastReadMs := t }

/-- `x[distance] <- d`, `x[last_success_ms] <- t` (R208). -/
def State.setSuccess (s : State) (d : Half) (t : Clock) : State := { s with distance := d, lastSuccessMs := t }

def State.setMode (s : State) (b : Bool) : State := { s with mode := b }

/-! ## Bus primitives (R9, R121) -/

/-- `Sel()`: the lines' activity since the last bracket comes first (R263). -/
def selBus (s : State) : State :=
  (((s.setPeriph (s.periph.selected s.env s.draws)).spend).setBridge true .bracket).emit .sel

/-- `Xfer(m) -> s`: one full-duplex exchange. -/
def xfer (m : Byte) (s : State) : Byte × State :=
  (s.periph.answer s.env s.draws,
    ((s.setPeriph (s.periph.absorb s.env s.draws m)).spend).emit (.xfer m (s.periph.answer s.env s.draws)))

/-- `Desel()`. -/
def deselBus (s : State) : State :=
  ((s.setPeriph s.periph.deselected).setBridge false .idle).emit .desel

/-- Exchanges whose purpose is to send: the bytes the peripheral returns are discarded (R122). -/
def sendAll : List Byte → State → State
  | [], s => s
  | m :: rest, s => sendAll rest (xfer m s).2

/-- `n` exchanges whose purpose is to receive: the block sends FILL (R122). -/
def receiveAll : Nat → State → List Byte × State
  | 0, s => ([], s)
  | n + 1, s =>
    let one := xfer Config.fill s
    let more := receiveAll n one.2
    (one.1 :: more.1, more.2)

/-- `Drive(mode_line, lvl)` (R10, R44). -/
def driveMode (lvl : Bool) (s : State) : State := { s with modeLine := lvl }.emit (.mode lvl)

/-! ## The clock -/

/-- `Now() -> t`: one sample of the clock (R10, R40). -/
def now (s : State) : Clock × State :=
  (s.clock + clockAdvance s.env s.draws, (s.setClock (s.clock + clockAdvance s.env s.draws)).spend)

/-- The clock sample that ends the settling wait begun at `t0`: one at least `SETTLE_MS` after it, and any such one in the
general environment (R136, I13); the reference clock moves by exactly 20 ms. -/
def settledAt (s : State) : Clock :=
  let t := s.clock + clockAdvance s.env s.draws
  if Config.settleMs ≤ (elapsed t s.settleT0).toNat then t else s.settleT0 + BitVec.ofNat 32 Config.settleMs

/-- The end of a settling wait: samples are taken until one is late enough, and the bridge controller is IDLE again (R136). -/
def endSettle (s : State) : State := ((s.setClock (settledAt s)).spend).setBridge s.sel .idle

/-- `Settle()` (R136). -/
def settle (s : State) : State :=
  let t := now (s.setBridge s.sel .settle)
  endSettle ((t.2.setSettle t.1).emit (.wait Config.settleMs))

/-! ## The arbiter (R123, R266, R268) -/

/-- The ports on which a request waits. -/
def waitingPorts (s : State) : List Nat :=
  (List.range s.ports.length).filter (fun p => match s.ports[p]? with | some (_ :: _) => true | _ => false)

/-- The port granted next: the only one that waits, or, of several, whichever the free choice names (log entry 8). -/
def grantedPort (s : State) : Option Nat :=
  match waitingPorts s with
  | [] => none
  | [p] => some p
  | p :: q :: rest => (p :: q :: rest)[Config.freeGrant s.draws % (rest.length + 2)]?

/-- The oldest request of port `p`, and the state in which it is granted: each host's operations take effect in the order
it issues them (R71), and the other requests are held (R266). -/
def takeRequest (s : State) (p : Nat) : Option (Request × State) :=
  match s.ports[p]? with
  | some (r :: rest) => some (r, { s with ports := s.ports.set p rest, grant := p }.spend)
  | _ => none

/-- The request the arbiter grants, and the state in which it runs. -/
def grantNext (s : State) : Option (Request × State) :=
  match grantedPort s with
  | some p => takeRequest s p
  | none => none

/-- The instruction of a request: its bytes are one instruction, no more (R100). -/
def decodeRequest (r : Request) : Except Refusal Instr :=
  match decode r.layer r.bytes with
  | .ok (i, []) => .ok i
  | .ok (_, b :: rest) => .error (.trailingBytes (b :: rest).length)
  | .error e => .error (.undecodable e)

/-- The request that carries the instruction of a table word: its own bytes, and no more. -/
def tableRequest (nbits w : Nat) : Request :=
  let bs := tableBytes nbits w
  match decode (tableLayer bs) bs with
  | .ok (i, _) => ⟨tableLayer bs, encode i⟩
  | .error _ => ⟨tableLayer bs, bs.take (nbits / 8)⟩

end Sys2Proof.Machine
end

