-- ==== Sys2Proof/Machine/Wire.lean ====
section
/-! DEFINITION. The five wire transactions, each a complete bracket (R124 to R128), and the meanings of the opcode table's
CMD rows: one transaction run on its own (log entry 2). The host operations of Bridge.lean are made of the same
transactions. -/

namespace Sys2Proof.Machine

/-- The outcome of one instruction. -/
abbrev Ran := Host.Outcome State Fault Refusal

/-- The bracket of a depth query: the command byte, then one received byte (R124, R125). -/
def wireQuery (opc : BitVec 4) (cc : Chan) (s : State) : Byte × State :=
  let answer := xfer Config.fill (xfer (cmdByte opc cc) (selBus s)).2
  (answer.1, deselBus answer.2)

/-- The bracket of a receive: the command byte, the length byte, then `len` received bytes (R126). -/
def wireReceive (cc : Chan) (len : Byte) (s : State) : List Byte × State :=
  let got := receiveAll len.toNat (sendAll [cmdByte 0x2#4 cc, len] (selBus s))
  (got.1, deselBus got.2)

/-- The bracket of a transmit: the command byte, the length byte, then the payload (R127). -/
def wireTransmit (cc : Chan) (payload : List Byte) (s : State) : State :=
  deselBus (sendAll (cmdByte 0x4#4 cc :: BitVec.ofNat 8 payload.length :: payload) (selBus s))

/-- The bracket of a set-baud and the settling wait after it (R128, R136). -/
def wireBaud (cc : Chan) (code : Byte) (s : State) : State :=
  settle (deselBus (sendAll [cmdByte 0x8#4 cc, code] (selBus s)))

/-- CMD_QRD (R124): answers the count. -/
def execCmdQrd (cc : Chan) (s : State) : Ran :=
  .next ((wireQuery 0x1#4 cc s).2.reply (.byte (wireQuery 0x1#4 cc s).1))

/-- CMD_RX (R126): answers the received bytes. -/
def execCmdRx (cc : Chan) (len : Byte) (s : State) : Ran :=
  .next ((wireReceive cc len s).2.reply (.bytes (wireReceive cc len s).1))

/-- CMD_QTD (R125): answers the count. -/
def execCmdQtd (cc : Chan) (s : State) : Ran :=
  .next ((wireQuery 0x3#4 cc s).2.reply (.byte (wireQuery 0x3#4 cc s).1))

/-- CMD_TX (R127). A payload of more than 255 bytes has no length byte (R67). -/
def execCmdTx (cc : Chan) (payload : List Byte) (s : State) : Ran :=
  if payload.length ≤ 255 then .next ((wireTransmit cc payload s).reply .nothing)
  else .refused (.payloadTooLong payload.length)

/-- CMD_BAUD (R128). Only codes 0..9 form a bracket (R95). -/
def execCmdBaud (cc : Chan) (code : Byte) (s : State) : Ran :=
  if code.toNat < Config.nBaud then .next ((wireBaud cc code s).reply .nothing)
  else .refused (.reservedBaudCode code)

end Sys2Proof.Machine
end

