-- ==== Sys2Proof/Machine/Bridge.lean ====
section
/-! DEFINITION. The seven bridge operations (R129 to R135). Each tests its channel operand first (R120) and is then one wire
transaction. -/

namespace Sys2Proof.Machine

/-- `QRD(c)` (R129). -/
def queryReceiveDepth (c : Byte) (s : State) : Byte × State :=
  match channel? c with
  | some cc => wireQuery 0x1#4 cc s
  | none => (0x00#8, s)

/-- `QTD(c)` (R130). -/
def queryTransmitDepth (c : Byte) (s : State) : Byte × State :=
  match channel? c with
  | some cc => wireQuery 0x3#4 cc s
  | none => (0x00#8, s)

/-- `RXB(c)` (R131): a receive of length 1. -/
def receiveByte (c : Byte) (s : State) : Byte × State :=
  match channel? c with
  | some cc => ((wireReceive cc 0x01#8 s).1.headD 0x00#8, (wireReceive cc 0x01#8 s).2)
  | none => (0x00#8, s)

/-- `RXN(c, len, dst)` (R132). The channel is tested before the buffer (R120); a buffer shorter than `len` is refused (R64). -/
def receiveBuffer (c len : Byte) (dst : Ref) (s : State) : Ran :=
  match channel? c with
  | none => .next (s.reply .nothing)
  | some cc =>
    if bufferHolds s dst len then
      let got := wireReceive cc len s
      .next ((got.2.setMem (writeBuffer got.2.mem dst 0 got.1)).reply .nothing)
    else .refused (.bufferTooShort dst len)

/-- `TXB(c, v)` (R133): a transmit of length 1. -/
def transmitByte (c v : Byte) (s : State) : State :=
  match channel? c with
  | some cc => wireTransmit cc [v] s
  | none => s

/-- `TXN(c, len, src)` (R134). The channel is tested before the buffer (R120); a buffer shorter than `len` is refused (R64). -/
def transmitBuffer (c len : Byte) (src : Ref) (s : State) : Ran :=
  match channel? c with
  | none => .next (s.reply .nothing)
  | some cc =>
    if bufferHolds s src len then .next ((wireTransmit cc (readBuffer s.mem src 0 len.toNat) s).reply .nothing)
    else .refused (.bufferTooShort src len)

/-- `SETBAUD(c, code)` (R135): the channel first, then the code (R253). -/
def setBaudRate (c code : Byte) (s : State) : State :=
  match channel? c with
  | some cc => if code.toNat < Config.nBaud then wireBaud cc code s else s
  | none => s

def execQrd (c : Byte) (s : State) : Ran :=
  .next ((queryReceiveDepth c s).2.reply (.byte (queryReceiveDepth c s).1))

def execQtd (c : Byte) (s : State) : Ran :=
  .next ((queryTransmitDepth c s).2.reply (.byte (queryTransmitDepth c s).1))

def execRxb (c : Byte) (s : State) : Ran :=
  .next ((receiveByte c s).2.reply (.byte (receiveByte c s).1))

def execRxn (c len : Byte) (dst : Ref) (s : State) : Ran := receiveBuffer c len dst s

def execTxb (c v : Byte) (s : State) : Ran := .next ((transmitByte c v s).reply .nothing)

def execTxn (c len : Byte) (src : Ref) (s : State) : Ran := transmitBuffer c len src s

def execSetBaud (c code : Byte) (s : State) : Ran := .next ((setBaudRate c code s).reply .nothing)

end Sys2Proof.Machine
end

