-- ==== Sys2Proof/Machine/View.lean ====
section
/-! DEFINITION. The Channel View operations (R170 to R180): each is one bridge operation on channel `view_chan[k]`, or the
constant NOT_AVAILABLE. A view index of NVIEW or more is refused (R102, R170). -/

namespace Sys2Proof.Machine

/-- Run an operation on the channel of view `k` (R170). -/
def onView (k : Byte) (s : State) (run : Byte → Ran) : Ran :=
  match viewChannel? s k with
  | some c => run c
  | none => .refused (.noSuchView k)

/-- AVAIL (R171). -/
def execAvail (k : Byte) (s : State) : Ran :=
  onView k s fun c => .next ((queryReceiveDepth c s).2.reply (.byte (queryReceiveDepth c s).1))

/-- READ (R172). -/
def execRead (k : Byte) (s : State) : Ran :=
  onView k s fun c => .next ((receiveByte c s).2.reply (.byte (receiveByte c s).1))

/-- READN (R173). -/
def execReadn (k len : Byte) (dst : Ref) (s : State) : Ran := onView k s fun c => receiveBuffer c len dst s

/-- WRITE (R174). -/
def execWrite (k v : Byte) (s : State) : Ran := onView k s fun c => .next ((transmitByte c v s).reply .nothing)

/-- WRITEN (R175). -/
def execWriten (k len : Byte) (src : Ref) (s : State) : Ran := onView k s fun c => transmitBuffer c len src s

/-- BEGIN (R176). -/
def execBeginRate (k : Byte) (rate : Rate) (s : State) : Ran :=
  onView k s fun c => .next ((setBaudRate c (rate2code rate) s).reply .nothing)

/-- PEEK (R178): no bus event. -/
def execPeek (k : Byte) (s : State) : Ran := onView k s fun _ => .next (s.reply (.half Config.notAvailable))

/-- PARSE (R179): no bus event. -/
def execParse (k : Byte) (s : State) : Ran := onView k s fun _ => .next (s.reply (.half Config.notAvailable))

end Sys2Proof.Machine
end

