-- ==== Sys2Proof/Machine/Sensor.lean ====
section
/-! DEFINITION. The sensor session: READDIST with its header scan (R200 to R210), SETPROC (R211) and the six getters (R212 to
R217). The session's byte stream is the view `sess_view` (R200): `Avail()` is QRD and `SRead()` is RXB on its channel `c`. -/

namespace Sys2Proof.Machine

/-- The end of an attempt: the codes just found, `last_read_ms <- now` (R209), the result returned (R210). -/
def endAttempt (t : Clock) (st res : Code) (s : State) : State :=
  (((s.setOutcome st res).setLastRead t).setSession .idle).reply (.code res)

/-- Frame completion, checksum validation and decode (R206, R207, R208): three bytes, no availability test between them. -/
def completeFrame (c : Byte) (t : Clock) (s : State) : State :=
  let hi := receiveByte c s
  let lo := receiveByte c hi.2
  let cs := receiveByte c lo.2
  if cs.1 = frameChecksum hi.1 lo.1 then
    endAttempt t Config.stReadOk Config.resSuccess (cs.2.setSuccess (decodedDistance hi.1 lo.1) t)
  else endAttempt t Config.stReadOk Config.resChecksumMismatch cs.2

/-- After the header: one `Avail()`, and the frame if at least 3 bytes follow (R205). -/
def afterHeader (c : Byte) (t : Clock) (s : State) : State :=
  let n := queryReceiveDepth c s
  if n.1 < Config.frameLen - 1 then endAttempt t Config.stIncompleteFrame Config.resIncompleteFrame n.2
  else completeFrame c t n.2

/-- The header scan (R204), at most `fuel` bytes of it in one step; where the scan outlasts them the operation stays in
progress, and the next step takes the scan up (log entry 13). -/
def scanHeader (c : Byte) (t : Clock) : Nat → State → State
  | 0, s => s.setSession (.scanning t)
  | fuel + 1, s =>
    let n := queryReceiveDepth c s
    if n.1 = 0 then endAttempt t Config.stHeaderNotFound Config.resHeaderNotFound n.2
    else
      let b := receiveByte c n.2
      if b.1 = Config.header then afterHeader c t b.2 else scanHeader c t fuel b.2

/-- How many bytes of a scan one step takes: all that wait now, and one more test. -/
def scanBudget (c : Byte) (s : State) : Nat :=
  match channel? c with
  | some cc => (s.periph.get cc).rq.length + 1
  | none => 1

/-- An admitted attempt (R203, R204). -/
def attempt (c : Byte) (t : Clock) (s : State) : State :=
  let n := queryReceiveDepth c s
  if n.1 < Config.frameLen then endAttempt t Config.stFrameTooShort Config.resIncompleteFrame n.2
  else scanHeader c t (scanBudget c n.2) n.2

/-- READDIST on the channel of the session's view (R201): one clock sample, the throttle (R202), the attempt. -/
def readDistance (c : Byte) (s : State) : State :=
  let t := now s
  if throttled t.1 s.lastReadMs then t.2.reply (.code s.result) else attempt c t.1 t.2

/-- READDIST (R201). -/
def execReadDist (s : State) : Ran :=
  match viewChannel? s s.sessView with
  | some c => .next (readDistance c s)
  | none => .refused (.sessionUnbound s.sessView)

/-- A READDIST in progress goes on with its header scan (R204, R266). -/
def resumeScan (t : Clock) (s : State) : Ran :=
  match viewChannel? s s.sessView with
  | some c => .next (scanHeader c t (scanBudget c s) s)
  | none => .refused (.sessionUnbound s.sessView)

/-- SETPROC (R211). -/
def execSetProc (b : Bool) (s : State) : Ran := .next ((driveMode b (s.setMode b)).reply .nothing)

/-- GETDIST (R212). -/
def execGetDist (s : State) : Ran := .next (s.reply (.half s.distance))

/-- GETLR (R213). -/
def execGetLr (s : State) : Ran := .next (s.reply (.stamp s.lastReadMs))

/-- GETLS (R214). -/
def execGetLs (s : State) : Ran := .next (s.reply (.stamp s.lastSuccessMs))

/-- GETSTAT (R215). -/
def execGetStat (s : State) : Ran := .next (s.reply (.code s.status))

/-- GETRES (R216). -/
def execGetRes (s : State) : Ran := .next (s.reply (.code s.result))

/-- GETMODE (R217). -/
def execGetMode (s : State) : Ran := .next (s.reply (.bit s.mode))

end Sys2Proof.Machine
end

