-- ==== Sys2Proof/Machine/Dispatch.lean ====
section
/-! DEFINITION. The meaning of each instruction: one arm a constructor. -/

namespace Sys2Proof.Machine

def exec (i : Instr) (s : State) : Host.Outcome State Fault Refusal :=
  match i with
  -- wire commands (41_bridge.md section 2)
  | .cmdQrd cc => Sys2Proof.Machine.execCmdQrd cc s
  | .cmdRx cc len => Sys2Proof.Machine.execCmdRx cc len s
  | .cmdQtd cc => Sys2Proof.Machine.execCmdQtd cc s
  | .cmdTx cc payload => Sys2Proof.Machine.execCmdTx cc payload s
  | .cmdBaud cc code => Sys2Proof.Machine.execCmdBaud cc code s
  -- bridge operations (41_bridge.md section 3)
  | .qrd c => Sys2Proof.Machine.execQrd c s
  | .qtd c => Sys2Proof.Machine.execQtd c s
  | .rxb c => Sys2Proof.Machine.execRxb c s
  | .rxn c len dst => Sys2Proof.Machine.execRxn c len dst s
  | .txb c v => Sys2Proof.Machine.execTxb c v s
  | .txn c len src => Sys2Proof.Machine.execTxn c len src s
  | .setBaud c code => Sys2Proof.Machine.execSetBaud c code s
  -- Channel View operations (42_channel_view.md)
  | .avail k => Sys2Proof.Machine.execAvail k s
  | .read k => Sys2Proof.Machine.execRead k s
  | .readn k len dst => Sys2Proof.Machine.execReadn k len dst s
  | .write k v => Sys2Proof.Machine.execWrite k v s
  | .writen k len src => Sys2Proof.Machine.execWriten k len src s
  | .beginRate k rate => Sys2Proof.Machine.execBeginRate k rate s
  | .peek k => Sys2Proof.Machine.execPeek k s
  | .parse k => Sys2Proof.Machine.execParse k s
  -- sensor session operations (43_sensor_session.md)
  | .readDist => Sys2Proof.Machine.execReadDist s
  | .setProc b => Sys2Proof.Machine.execSetProc b s
  | .getDist => Sys2Proof.Machine.execGetDist s
  | .getLr => Sys2Proof.Machine.execGetLr s
  | .getLs => Sys2Proof.Machine.execGetLs s
  | .getStat => Sys2Proof.Machine.execGetStat s
  | .getRes => Sys2Proof.Machine.execGetRes s
  | .getMode => Sys2Proof.Machine.execGetMode s

end Sys2Proof.Machine
end

