-- ==== Sys2Proof/Machine/Step.lean ====
section
/-! DEFINITION. One step. The block has no program counter (R21): it takes the request the arbiter grants and performs it to
completion (R5, R266). While an operation is in progress nothing is granted (R123, R268). -/

namespace Sys2Proof.Machine

/-- Grant one request and run its instruction; with no request waiting the block waits (R281). -/
def serve (s : State) : Host.Outcome State Fault Refusal :=
  match grantNext s with
  | none => .next s
  | some (r, s') =>
    match decodeRequest r with
    | .ok i => exec i s'
    | .error e => .refused e

/-- One step: the end of a settling wait, the continuation of a header scan, or the next request. A bracket open between
two steps is a stalled transport (R271). -/
def step (s : State) : Host.Outcome State Fault Refusal :=
  match s.bstate with
  | .bracket => .fault .stalledTransport
  | .settle => .next (endSettle s)
  | .idle =>
    match s.session with
    | .scanning t => resumeScan t s
    | .idle => serve s

/-- The state in which the instruction of a table word is the only request and nothing is in progress (log entry 8). -/
def State.withFetchWord (s : State) (nbits w : Nat) : State :=
  { s with ports := [[tableRequest nbits w]], sel := false, bstate := .idle, session := .idle }

end Sys2Proof.Machine
end

