-- ==== Sys2Proof/Safety.lean ====
section
/-! DEFINITION. What a safe run is, in the terms the statements use: the shape of the transcript (R72, R93, R98, R285), the
invariant of the registers, and the frames of the operations. -/

namespace Sys2Proof

open Machine

/-! ## The shape of a transcript -/

/-- Where an observer of the transcript stands. -/
inductive Watch where
  /-- no bracket is open -/
  | outside
  /-- a bracket is open, and its exchanges stand at the phase -/
  | inside (p : Phase)
  /-- a set-baud bracket has closed, and its wait has not yet come -/
  | settling
  deriving DecidableEq, Repr

/-- Whether the block may send `m` in a bracket at the phase: a command byte that decodes (R98), FILL in an exchange made to
receive (R122), a baud code of 0..9 (R95), any length or payload byte. -/
def sendable : Phase → Byte → Bool
  | .command, m => decide (decodeCmd m ≠ .invalid)
  | .depth _ _, m | .receive _ _, m => decide (m = Config.fill)
  | .baud _, m => decide (m.toNat < Config.nBaud)
  | .length _ _, _ | .transmit _ _, _ => true
  | .off, _ | .complete _, _ | .invalid, _ => false

/-- One event more, or none where the event has no place there: a bracket holds exchanges only and closes when its shape is
complete (R72, R93), a set-baud bracket is followed by its wait before anything else (R128, R285). -/
def Watch.next : Watch → Event → Option Watch
  | .outside, .sel => some (.inside .command)
  | .outside, .mode _ => some .outside
  | .inside p, .xfer m _ => if sendable p m then some (.inside (p.next m)) else none
  | .inside (.complete false), .desel => some .outside
  | .inside (.complete true), .desel => some .settling
  | .settling, .wait n => if n = Config.settleMs then some .outside else none
  | _, _ => none

/-- Where the observer stands after some events. -/
def watch : Watch → List Event → Option Watch
  | w, [] => some w
  | w, e :: rest =>
    match w.next e with
    | some w' => watch w' rest
    | none => none

/-- The transcript is a sequence of whole brackets of the shapes of R93, each set-baud bracket with its wait, and mode-line
events between them (R72, R98, R285, R290). -/
def wellBracketed (tr : List Event) : Bool := decide (watch .outside tr = some .outside)

/-! ## The invariant of the registers -/

/-- The pairs of status and result an attempt leaves, and the pair of reset (R252, R34). -/
def legalCodes (st res : Code) : Bool :=
  decide ((st, res) ∈ [(Config.stNone, Config.resNone), (Config.stReadOk, Config.resSuccess),
    (Config.stReadOk, Config.resChecksumMismatch), (Config.stFrameTooShort, Config.resIncompleteFrame),
    (Config.stHeaderNotFound, Config.resHeaderNotFound), (Config.stIncompleteFrame, Config.resIncompleteFrame)])

/-- What holds of the registers between two steps. -/
structure RegisterInv (s : State) : Prop where
  /-- the select is released, the bridge controller IDLE and the peripheral not selected (R121, R22) -/
  released : s.sel = false ∧ s.bstate = .idle ∧ s.periph.phase = .off
  /-- `status` and `result` hold a pair of codes of R252; codes 5 to 7 are never written (R24, R25) -/
  codes : legalCodes s.status s.result = true
  /-- `distance` is 0 or at least 30 (R26) -/
  distance : s.distance = 0 ∨ Config.minDistMm ≤ s.distance
  /-- before the first attempt the measured registers stand at their reset values (R24, R26, R34) -/
  untouched : s.status = Config.stNone → s.distance = 0 ∧ s.lastReadMs = 0 ∧ s.lastSuccessMs = 0
  /-- after a success both timestamps are that attempt's sample (R28, R29, R208, R209) -/
  success : s.result = Config.resSuccess → s.lastSuccessMs = s.lastReadMs ∧ Config.minDistMm ≤ s.distance
  /-- the mode-select line is at the level of `mode` (R27, R44) -/
  line : s.modeLine = s.mode

/-! ## Runs -/

/-- The states a run can reach: the block steps, and between two steps the host presents any requests on any ports and does
what it likes with its own buffers (R2, R45, R266). -/
inductive Run (s : State) : State → Prop where
  | start : Run s s
  | step {t u : State} : Run s t → Machine.step t = .next u → Run s u
  | host {t : State} (ports : List (List Request)) (mem : Memory) (buffers : List HostBuffer) :
      Run s t → Memory.wf mem = true → Run s { t with ports := ports, mem := mem, buffers := buffers }

/-! ## Frames

Each frame names the fields that may differ; that the rest of the state is the same is said by an update of `s`. -/

/-- What a bracket changes beside the host's memory and the reply: the transcript and the peripheral, the free-value counter,
and `sel` and `bstate`, which end released and IDLE (R121). -/
def BusFrame (s t : State) : Prop :=
  t = { s with
    sel := false
    bstate := .idle
    periph := t.periph
    draws := t.draws
    transcript := t.transcript
    returned := t.returned }

/-- What a receive into a host buffer changes: a bracket's changes and host memory. -/
def BufferFrame (s t : State) : Prop :=
  t = { s with
    sel := false
    bstate := .idle
    periph := t.periph
    draws := t.draws
    transcript := t.transcript
    returned := t.returned
    mem := t.mem }

/-- What a set-baud changes: a bracket's changes, `settle_t0` and the clock (R135, R136). -/
def SettleFrame (s t : State) : Prop :=
  t = { s with
    sel := false
    bstate := .idle
    periph := t.periph
    draws := t.draws
    transcript := t.transcript
    returned := t.returned
    settleT0 := t.settleT0
    clock := t.clock }

/-- What an attempt changes: a bracket's changes, the session registers R201 lists, the session's progress and the reply. -/
def AttemptFrame (s t : State) : Prop :=
  t = { s with
    sel := t.sel
    bstate := t.bstate
    session := t.session
    status := t.status
    result := t.result
    distance := t.distance
    lastReadMs := t.lastReadMs
    lastSuccessMs := t.lastSuccessMs
    periph := t.periph
    draws := t.draws
    transcript := t.transcript
    returned := t.returned }

/-- What an operation without a bus event changes: the reply (R69, R120, R178). -/
def ReplyFrame (s t : State) : Prop := t = { s with returned := t.returned }

/-- The six session registers, the mode line and the configuration are as before. -/
def SameSession (s t : State) : Prop :=
  t.status = s.status ∧ t.result = s.result ∧ t.distance = s.distance ∧ t.lastReadMs = s.lastReadMs ∧
    t.lastSuccessMs = s.lastSuccessMs

/-- Every byte of host memory reads as before. -/
def SameMemory (s t : State) : Prop := ∀ a, Memory.read t.mem a = Memory.read s.mem a

/-- The transcript of `t` is that of `s` with these events after it. -/
def Emits (s t : State) (events : List Event) : Prop := t.transcript = s.transcript ++ events

/-- `t` returned one result more than `s`, to the granted requester (R106, R266). -/
def Returns (s t : State) (r : Result) : Prop := t.returned = s.returned ++ [⟨s.grant, r⟩]

/-- Channel `cc` as the next bracket finds it, after its line's activity since the last one (R263). -/
def channelAtSelect (s : State) (cc : Chan) : Channel := (s.periph.lineActivity s.env s.draws).get cc

/-- The transmit queue of channel `cc` takes every one of the next `n` payload bytes sent to it, which follow the select, the
command byte and the length byte: no draw makes it overflow in the general environment (I11; log entry 18), and all of them
fit in it at the reference peripheral (R264). -/
def TxRoom (s : State) (cc : Chan) (n : Nat) : Prop :=
  match s.env with
  | .general => ∀ k, k < n → Config.freeTxOverflow (s.draws + 3 + k) = none
  | .reference => (channelAtSelect s cc).tq.length + n ≤ s.periph.qcap

/-- An exchange made to send: the byte returned is discarded (R122). -/
def sentWith (ms ss : List Byte) : List Event := List.zipWith Event.xfer ms ss

/-- Exchanges made to receive, one for each byte (R122). -/
def received (bs : List Byte) : List Event := bs.map (Event.xfer Config.fill)

/-! ## The transcript of an attempt (R221) -/

/-- One QRD bracket that answered `n` (R129). -/
def AskedDepth (c n : Byte) (es : List Event) : Prop :=
  ∃ a, es = [.sel, .xfer (0x10 ||| c) a, .xfer 0x00 n, .desel]

/-- One RXB bracket that answered `r` (R131). -/
def TookByte (c r : Byte) (es : List Event) : Prop :=
  ∃ a b, es = [.sel, .xfer (0x20 ||| c) a, .xfer 0x01 b, .xfer 0x00 r, .desel]

/-- The steps of a header scan that found no header: each a QRD bracket that answered some bytes and an RXB bracket whose
byte is not the header (R204, R221). -/
inductive Skipped (c : Byte) : List Event → Prop where
  | none : Skipped c []
  | more {n b : Byte} {q r rest : List Event} : AskedDepth c n q → n ≠ 0 → TookByte c b r → b ≠ Config.header →
      Skipped c rest → Skipped c (q ++ r ++ rest)

/-- How an attempt ends (R203 to R208). -/
inductive AttemptEnd where
  | tooShort
  | noHeader
  | incomplete
  | frame (hi lo cs : Byte)
  deriving DecidableEq, Repr

/-- A header scan to the end of its attempt, and how that ends: some steps that found no header, then no byte left (R204), or
the header with too few bytes behind it (R205), or the header and the three bytes after it (R206). -/
inductive ScanEvents (c : Byte) : AttemptEnd → List Event → Prop where
  | noHeader {sk z : List Event} : Skipped c sk → AskedDepth c 0 z → ScanEvents c .noHeader (sk ++ z)
  | incomplete {m k : Byte} {sk d h w : List Event} : Skipped c sk → AskedDepth c m d → m ≠ 0 →
      TookByte c Config.header h → AskedDepth c k w → k.toNat < 3 → ScanEvents c .incomplete (sk ++ (d ++ h ++ w))
  | frame {m k hi lo cs : Byte} {sk d h w x y z : List Event} : Skipped c sk → AskedDepth c m d → m ≠ 0 →
      TookByte c Config.header h → AskedDepth c k w → 3 ≤ k.toNat → TookByte c hi x → TookByte c lo y →
      TookByte c cs z → ScanEvents c (.frame hi lo cs) (sk ++ (d ++ h ++ (w ++ (x ++ y ++ z))))

/-- The transcript of an attempt that has ended: one QRD bracket, and the scan where it answered 4 or more (R203, R221). -/
inductive AttemptEvents (c : Byte) : AttemptEnd → List Event → Prop where
  | tooShort {n : Byte} {q : List Event} : AskedDepth c n q → n.toNat < 4 → AttemptEvents c .tooShort q
  | scanned {n : Byte} {e : AttemptEnd} {q es : List Event} : AskedDepth c n q → 4 ≤ n.toNat → ScanEvents c e es →
      AttemptEvents c e (q ++ es)

/-- The transcript of an attempt whose scan still runs: one QRD bracket that answered 4 or more, and one or more steps that
found no header. -/
def AttemptBegun (c : Byte) (es : List Event) : Prop :=
  ∃ n q sk, es = q ++ sk ∧ AskedDepth c n q ∧ 4 ≤ n.toNat ∧ Skipped c sk ∧ sk ≠ []

/-- The states in which a READDIST in progress can stand: the block steps while the scan runs, and between two steps the host
presents requests, which are held, and does what it likes with its buffers (R45, R266; log entry 13). -/
inductive Resumed (s : State) : State → Prop where
  | start : Resumed s s
  | step {t u : State} {t0 : Clock} : Resumed s t → t.session = .scanning t0 → Machine.step t = .next u → Resumed s u
  | host {t : State} (ports : List (List Request)) (mem : Memory) (buffers : List HostBuffer) :
      Resumed s t → Resumed s { t with ports := ports, mem := mem, buffers := buffers }

/-- What an attempt with the clock sample `t0` leaves, by how it ended: the codes of R203 to R208, the timestamps of R208 and
R209, the distance of R208, the result returned (R210). -/
def AttemptLeaves (t0 : Clock) (e : AttemptEnd) (s t : State) : Prop :=
  t.lastReadMs = t0 ∧ Returns s t (.code t.result) ∧
    match e with
    | .tooShort =>
      t.status = 2 ∧ t.result = 4 ∧ t.distance = s.distance ∧ t.lastSuccessMs = s.lastSuccessMs
    | .noHeader =>
      t.status = 3 ∧ t.result = 3 ∧ t.distance = s.distance ∧ t.lastSuccessMs = s.lastSuccessMs
    | .incomplete =>
      t.status = 4 ∧ t.result = 4 ∧ t.distance = s.distance ∧ t.lastSuccessMs = s.lastSuccessMs
    | .frame hi lo cs =>
      t.status = 1 ∧
        if cs = frameChecksum hi lo then
          t.result = 1 ∧ t.distance = decodedDistance hi lo ∧ t.lastSuccessMs = t0
        else t.result = 2 ∧ t.distance = s.distance ∧ t.lastSuccessMs = s.lastSuccessMs

end Sys2Proof
end

