-- ==== Sys2Proof/Certificates/Slice0/Obligations.lean ====
section
/-! DEFINITION. The statements for the provers. Each docstring names the rule of spec/ it formalises. Where a value is the
peripheral's or the clock's, the statement holds for every value of it. -/

open Sys2Proof Sys2Proof.Machine

/-! ## Encodings (30_encoding.md) -/

/-- A few words written out from the encodings of R90, R93 and R101: a sanity statement. -/
def Obligations.WrittenWordsDecode : Prop :=
  decode .wire [0x12, 0x00] = .ok (.cmdQrd 2, []) ∧
  decode .wire [0x33, 0x00] = .ok (.cmdQtd 3, []) ∧
  decode .wire [0x21, 0x02, 0x00, 0x00] = .ok (.cmdRx 1 2, []) ∧
  decode .wire [0x43, 0x02, 0x48, 0x69] = .ok (.cmdTx 3 [0x48, 0x69], []) ∧
  decode .wire [0x81, 0x07] = .ok (.cmdBaud 1 7, []) ∧
  decode .host [0x01, 0x05] = .ok (.qrd 5, []) ∧
  decode .host [0x07, 0x00, 0x0C] = .ok (.setBaud 0 12, []) ∧
  decode .host [0x15, 0x00, 0x00, 0x00, 0x25, 0x80] = .ok (.beginRate 0 9600, []) ∧
  decode .host [0x21, 0x01] = .ok (.setProc true, []) ∧
  decode .host [0x20] = .ok (.readDist, [])

/-- Decoding an encoded well-formed instruction gives it back, with every operand and whatever follows it. -/
def Obligations.DecodeOfEncode : Prop :=
  ∀ (i : Instr) (rest : List Byte), i.wellFormed = true → decode i.layer (encode i ++ rest) = .ok (i, rest)

/-- The decoder accepts nothing but encodings: what it reads is well formed, belongs to the layer, and encodes to exactly
the bytes it took. -/
def Obligations.DecodeAcceptsOnlyEncodings : Prop :=
  ∀ (l : Layer) (bs : List Byte) (i : Instr) (rest : List Byte),
    decode l bs = .ok (i, rest) → i.layer = l ∧ i.wellFormed = true ∧ bs = encode i ++ rest

/-- R92: the command byte of an opcode and a channel is `(opc << 4) | c[1:0]`, with the opcode in bits 7:4, zeros in bits 3:2
and the channel in bits 1:0; for the five opcodes it is the byte of R91's table; an operand of 4 or more names no channel, so
no command byte is formed for it. -/
def Obligations.CommandByteFields : Prop :=
  (∀ (opc : BitVec 4) (cc : Chan),
    cmdByte opc cc = (opc.zeroExtend 8 <<< 4) ||| cc.zeroExtend 8 ∧
    (cmdByte opc cc).extractLsb' 4 4 = opc ∧
    (cmdByte opc cc).extractLsb' 2 2 = 0 ∧
    (cmdByte opc cc).extractLsb' 0 2 = cc) ∧
  (∀ cc : Chan,
    cmdByte 0x1#4 cc = 0x10 ||| cc.zeroExtend 8 ∧ cmdByte 0x2#4 cc = 0x20 ||| cc.zeroExtend 8 ∧
    cmdByte 0x3#4 cc = 0x30 ||| cc.zeroExtend 8 ∧ cmdByte 0x4#4 cc = 0x40 ||| cc.zeroExtend 8 ∧
    cmdByte 0x8#4 cc = 0x80 ||| cc.zeroExtend 8) ∧
  cmdByte 0x1#4 2#2 = 0x12 ∧
  (∀ c : Byte, c.toNat < 4 → channel? c = some (c.extractLsb' 0 2)) ∧
  (∀ c : Byte, 4 ≤ c.toNat → channel? c = none)

/-- R97, R98: the command decoder on all 256 bytes. A byte is a command exactly when its bits 3:2 are 00 and its high nibble
is one of the five opcodes; each command byte decodes to its command and channel; exactly 20 bytes are commands. -/
def Obligations.CommandDecoderTable : Prop :=
  (∀ b : Byte, decodeCmd b ≠ .invalid ↔
    b.extractLsb' 2 2 = 0 ∧ b.extractLsb' 4 4 ∈ ([0x1, 0x2, 0x3, 0x4, 0x8] : List (BitVec 4))) ∧
  (∀ cc : Chan, decodeCmd (0x10 ||| cc.zeroExtend 8) = .qrd cc ∧ decodeCmd (0x20 ||| cc.zeroExtend 8) = .rx cc ∧
    decodeCmd (0x30 ||| cc.zeroExtend 8) = .qtd cc ∧ decodeCmd (0x40 ||| cc.zeroExtend 8) = .tx cc ∧
    decodeCmd (0x80 ||| cc.zeroExtend 8) = .baud cc) ∧
  ((List.range 256).filter (fun n => decide (decodeCmd (BitVec.ofNat 8 n) ≠ .invalid))).length = 20

/-- R102: a code that is none of the 23 of R101 is refused by the decoder and by the step, and a view index of NVIEW or more
is refused by every view operation. -/
def Obligations.HostCodeRefusals : Prop :=
  (∀ (op : Byte) (rest : List Byte),
    op ∉ ([0x01, 0x02, 0x03, 0x04, 0x05, 0x06, 0x07, 0x10, 0x11, 0x12, 0x13, 0x14, 0x15, 0x16, 0x17,
      0x20, 0x21, 0x22, 0x23, 0x24, 0x25, 0x26, 0x27] : List Byte) →
    decode .host (op :: rest) = .error (.unassignedOp op) ∧
    ∀ s s' : State, s.bstate = .idle → s.session = .idle → grantNext s = some (⟨.host, op :: rest⟩, s') →
      step s = .refused (.undecodable (.unassignedOp op))) ∧
  (∀ (s : State) (k v len : Byte) (r : Ref) (rate : Rate), s.viewChan.length ≤ k.toNat →
    exec (.avail k) s = .refused (.noSuchView k) ∧ exec (.read k) s = .refused (.noSuchView k) ∧
    exec (.readn k len r) s = .refused (.noSuchView k) ∧ exec (.write k v) s = .refused (.noSuchView k) ∧
    exec (.writen k len r) s = .refused (.noSuchView k) ∧ exec (.beginRate k rate) s = .refused (.noSuchView k) ∧
    exec (.peek k) s = .refused (.noSuchView k) ∧ exec (.parse k) s = .refused (.noSuchView k))

/-- R62: a byte is shifted bit 7 first, and the first bit received is bit 7. So for every byte exchanged by `Xfer`: the bits
an exchange sends are those of `m`, bit 7 first, the bits it receives are those of the peripheral's byte, bit 7 first, and
each side assembles the other's byte from them; and the bits of a bracket are those of its exchanges in their order. -/
def Obligations.WireBitOrder : Prop :=
  (∀ b : Byte, wireBits b = [b.getLsbD 7, b.getLsbD 6, b.getLsbD 5, b.getLsbD 4, b.getLsbD 3, b.getLsbD 2, b.getLsbD 1,
    b.getLsbD 0] ∧ byteOfWireBits (wireBits b) = b) ∧
  (∀ (m : Byte) (s : State), ∃ es, Emits s (xfer m s).2 es ∧
    sentBits es = wireBits m ∧ receivedBits es = wireBits (xfer m s).1 ∧
    byteOfWireBits (sentBits es) = m ∧ byteOfWireBits (receivedBits es) = (xfer m s).1) ∧
  (∀ ps : List (Byte × Byte),
    sentBits (.sel :: (ps.map fun p => .xfer p.1 p.2) ++ [.desel]) = ps.flatMap (fun p => wireBits p.1) ∧
    receivedBits (.sel :: (ps.map fun p => .xfer p.1 p.2) ++ [.desel]) = ps.flatMap (fun p => wireBits p.2))

/-! ## The step, the arbiter and reset (60_exceptions.md, 70_reset_and_hazards.md) -/

/-- A step with nothing in progress runs the instruction of the granted request, in the state in which it was granted. -/
def Obligations.StepRunsGrantedInstruction : Prop :=
  ∀ (s s' : State) (r : Request) (i : Instr),
    s.bstate = .idle → s.session = .idle → grantNext s = some (r, s') → decodeRequest r = .ok i → step s = exec i s'

/-- R71, R266, R268: what is granted is the oldest request of some port; every other request is held, in its order; and
where a request waits, one is granted, whichever the open choice is. -/
def Obligations.GrantTakesAnOldestRequest : Prop :=
  ∀ s : State,
    (∀ r s', grantNext s = some (r, s') → ∃ p rest, s.ports[p]? = some (r :: rest) ∧
      s' = { s with ports := s.ports.set p rest, grant := p, draws := s.draws + 1 }) ∧
    ((∃ q ∈ s.ports, q ≠ []) → grantNext s ≠ none)

/-- R123, R266: while a settling wait or a READDIST is in progress no request is granted, and none is lost. -/
def Obligations.BusyStepGrantsNothing : Prop :=
  ∀ s t : State, (s.bstate ≠ .idle ∨ s.session ≠ .idle) → step s = .next t → t.ports = s.ports ∧ t.grant = s.grant

/-- With nothing in progress and no request waiting, the block waits: the state stays. -/
def Obligations.StepWaitsForRequest : Prop :=
  ∀ s : State, s.bstate = .idle → s.session = .idle → (∀ q ∈ s.ports, q = []) → step s = .next s

/-- R136: from SETTLE the block is IDLE again at a clock sample at least 20 ms after the one at which the wait began, and no
event and no session register is written meanwhile. The model's choices: a SETTLE between two steps is a wait in progress
(log entry 1; StepKeepsRegisterInv says that no run reaches one), and the many samples of a wait are one, so that one step ends
it (log entry 7). -/
def Obligations.SettleEndsTwentyMsLater : Prop :=
  ∀ s : State, s.bstate = .settle → ∃ t, step s = .next t ∧ 20 ≤ (elapsed t.clock s.settleT0).toNat ∧
    t = { s with bstate := .idle, clock := t.clock, draws := s.draws + 1 }

/-- R271: a bracket left open between two steps is a transport that does not return: no further step. -/
def Obligations.OpenBracketHasNoStep : Prop :=
  ∀ s : State, s.bstate = .bracket → step s = .fault .stalledTransport

/-- R34: every register of the block after reset; the configuration and the external state are as the block was created
with; nothing has been emitted or returned. (`settle_t0` is any value: a free constant.) The model's choices: that no READDIST
is in progress (log entry 13), that no request waits (log entry 8), that the histories of R6 are fields and empty, and `grant`
and `draws` 0 (log entry 17); `env` is the one given (log entry 6). -/
def Obligations.ResetValues : Prop :=
  ∀ u : Setup, ∃ t0 : Clock, State.created u =
    { sel := false, bstate := .idle, settleT0 := t0, status := 0, result := 0, distance := 0, mode := Config.modeAtReset,
      lastReadMs := 0, lastSuccessMs := 0, modeLine := Config.modeAtReset, session := .idle,
      viewChan := u.viewChan, sessView := u.sessView, clock := u.clock, periph := u.periph, mem := u.mem,
      buffers := u.buffers, ports := [], grant := 0, transcript := [], returned := [], env := u.env, draws := 0 }

/-- R283: after reset `last_read_ms` is 0 and the result is RES_NONE, and whatever other operations have run since (R284), a
READDIST that finds them so at a clock sample below 100 is throttled: it returns RES_NONE and touches nothing but the clock
sample. -/
def Obligations.FirstReadDistIsThrottled : Prop :=
  (∀ u : Setup, (State.created u).lastReadMs = 0 ∧ (State.created u).result = Config.resNone) ∧
  (∀ (s : State) (c : Byte), s.viewChan[s.sessView.toNat]? = some c → s.lastReadMs = 0 → s.result = Config.resNone →
    (now s).1.toNat < 100 →
    exec .readDist s = .next { s with
      clock := (now s).1, draws := s.draws + 1, returned := s.returned ++ [⟨s.grant, .code 0⟩] })

/-! ## Wire transactions (41_bridge.md section 2) -/

/-- R124, R125: CMD_QRD and CMD_QTD on channel `cc` are the bracket SEL, command byte, FILL answered by `n`, DESEL; they
return `n` and leave every queue and baud code of the peripheral as the select found them. -/
def Obligations.WireQueriesComplete : Prop :=
  ∀ (s : State) (cc : Chan),
    (∃ a n t, exec (.cmdQrd cc) s = .next t ∧
      Emits s t [.sel, .xfer (0x10 ||| cc.zeroExtend 8) a, .xfer 0x00 n, .desel] ∧ Returns s t (.byte n) ∧
      BusFrame s t ∧ SameMemory s t ∧ ∀ x, t.periph.get x = channelAtSelect s x) ∧
    (∃ a n t, exec (.cmdQtd cc) s = .next t ∧
      Emits s t [.sel, .xfer (0x30 ||| cc.zeroExtend 8) a, .xfer 0x00 n, .desel] ∧ Returns s t (.byte n) ∧
      BusFrame s t ∧ SameMemory s t ∧ ∀ x, t.periph.get x = channelAtSelect s x)

/-- R126: CMD_RX of `len` bytes on channel `cc`: the bracket; the bytes returned are the next `len` bytes of RQ[cc], oldest
first, while it holds any, and are removed; what comes beyond them is open (R137). Nothing else of the peripheral changes. The
model's choices: that a wire transaction is run as a request of its own, and what it returns (log entries 2 and 17); that a
length of 0 changes no queue (log entry 19). -/
def Obligations.WireReceiveTakesOldestBytes : Prop :=
  ∀ (s : State) (cc : Chan) (len : Byte), ∃ a b bs t,
    exec (.cmdRx cc len) s = .next t ∧
    Emits s t ([.sel, .xfer (0x20 ||| cc.zeroExtend 8) a, .xfer len b] ++ received bs ++ [.desel]) ∧
    Returns s t (.bytes bs) ∧ BusFrame s t ∧ SameMemory s t ∧
    bs.length = len.toNat ∧
    bs.take (channelAtSelect s cc).rq.length = (channelAtSelect s cc).rq.take len.toNat ∧
    t.periph.get cc = { channelAtSelect s cc with rq := (channelAtSelect s cc).rq.drop len.toNat } ∧
    ∀ x, x ≠ cc → t.periph.get x = channelAtSelect s x

/-- R127: CMD_TX of a payload on channel `cc`: the bracket; the payload is appended to TQ[cc] in its order where the queue
takes it (a queue that overflows is open, I11). Nothing else of the peripheral changes. The model's choices: that a wire transaction is
run as a request of its own, with an empty reply (log entry 2); that an overflow is a draw (log entry 18); that a length of
0 changes no queue (log entry 19). -/
def Obligations.WireTransmitAppendsPayload : Prop :=
  ∀ (s : State) (cc : Chan) (payload : List Byte), payload.length ≤ 255 → ∃ a b ss t,
    exec (.cmdTx cc payload) s = .next t ∧ ss.length = payload.length ∧
    Emits s t ([.sel, .xfer (0x40 ||| cc.zeroExtend 8) a, .xfer (BitVec.ofNat 8 payload.length) b] ++
      sentWith payload ss ++ [.desel]) ∧
    Returns s t .nothing ∧ BusFrame s t ∧ SameMemory s t ∧
    (TxRoom s cc payload.length →
      (t.periph.get cc).tq = (channelAtSelect s cc).tq ++ payload) ∧
    (t.periph.get cc).rq = (channelAtSelect s cc).rq ∧ (t.periph.get cc).baud = (channelAtSelect s cc).baud ∧
    ∀ x, x ≠ cc → t.periph.get x = channelAtSelect s x

/-- R128: CMD_BAUD with a code of 0..9 on channel `cc`: the bracket, then WAIT(20); BAUD[cc] is the code, the queues and the
other channels stay. The model's choice: that a wire transaction is run as a request of its own, with an empty reply (log
entry 2). -/
def Obligations.WireBaudWritesBaud : Prop :=
  ∀ (s : State) (cc : Chan) (code : Byte), code.toNat < 10 → ∃ a b t,
    exec (.cmdBaud cc code) s = .next t ∧
    Emits s t [.sel, .xfer (0x80 ||| cc.zeroExtend 8) a, .xfer code b, .desel, .wait 20] ∧
    Returns s t .nothing ∧ SettleFrame s t ∧ SameMemory s t ∧
    20 ≤ (elapsed t.clock t.settleT0).toNat ∧
    (t.periph.get cc).baud.val = code.toNat ∧
    (t.periph.get cc).rq = (channelAtSelect s cc).rq ∧ (t.periph.get cc).tq = (channelAtSelect s cc).tq ∧
    ∀ x, x ≠ cc → t.periph.get x = channelAtSelect s x

/-- R94, R95: no bracket carries more than 255 payload bytes or a baud code of 10 or more. -/
def Obligations.IllFormedBracketsRefused : Prop :=
  ∀ (s : State) (cc : Chan) (payload : List Byte) (code : Byte),
    (255 < payload.length → exec (.cmdTx cc payload) s = .refused (.payloadTooLong payload.length)) ∧
    (10 ≤ code.toNat → exec (.cmdBaud cc code) s = .refused (.reservedBaudCode code))

/-- R264 (informative): at the reference peripheral a depth query answers min(|queue|, 255), a received byte is the head of
the queue or 0x00, and a transmit into a full queue is dropped. -/
def Obligations.ReferencePeripheralAnswers : Prop :=
  ∀ (s : State) (c : Byte) (cc : Chan), s.env = .reference → channel? c = some cc →
    (∃ t, exec (.qrd c) s = .next t ∧ Returns s t (.byte (BitVec.ofNat 8 (min (s.periph.get cc).rq.length 255)))) ∧
    (∃ t, exec (.qtd c) s = .next t ∧ Returns s t (.byte (BitVec.ofNat 8 (min (s.periph.get cc).tq.length 255)))) ∧
    (∃ t, exec (.rxb c) s = .next t ∧ Returns s t (.byte ((s.periph.get cc).rq.headD 0x00#8)) ∧
      (t.periph.get cc).rq = (s.periph.get cc).rq.tail) ∧
    (∀ v, s.periph.qcap ≤ (s.periph.get cc).tq.length →
      ∃ t, exec (.txb c v) s = .next t ∧ (t.periph.get cc).tq = (s.periph.get cc).tq)

/-! ## Bridge operations (41_bridge.md section 3) -/

/-- R129: QRD on a channel 0..3 is the bracket of a receive-depth query and returns the count unmodified; on a channel of 4
or more it returns 0x00 with no event and changes nothing else. -/
def Obligations.QrdCompletes : Prop :=
  ∀ (s : State) (c : Byte),
    (c.toNat < 4 → ∃ a n t,
      exec (.qrd c) s = .next t ∧ Emits s t [.sel, .xfer (0x10 ||| c) a, .xfer 0x00 n, .desel] ∧
      Returns s t (.byte n) ∧ BusFrame s t ∧ SameMemory s t ∧ ∀ x, t.periph.get x = channelAtSelect s x) ∧
    (4 ≤ c.toNat → exec (.qrd c) s = .next { s with returned := s.returned ++ [⟨s.grant, .byte 0x00⟩] })

/-- R130: QTD, as QRD with the transmit-depth query. -/
def Obligations.QtdCompletes : Prop :=
  ∀ (s : State) (c : Byte),
    (c.toNat < 4 → ∃ a n t,
      exec (.qtd c) s = .next t ∧ Emits s t [.sel, .xfer (0x30 ||| c) a, .xfer 0x00 n, .desel] ∧
      Returns s t (.byte n) ∧ BusFrame s t ∧ SameMemory s t ∧ ∀ x, t.periph.get x = channelAtSelect s x) ∧
    (4 ≤ c.toNat → exec (.qtd c) s = .next { s with returned := s.returned ++ [⟨s.grant, .byte 0x00⟩] })

/-- R131: RXB on a channel 0..3 returns the byte of its one receive exchange: the head of RQ[c], which is removed, where it
holds any, and a byte left open where it is empty; on a channel of 4 or more it returns 0x00 with no event. -/
def Obligations.RxbCompletes : Prop :=
  ∀ (s : State) (c : Byte),
    (c.toNat < 4 → ∃ a b r t,
      exec (.rxb c) s = .next t ∧ Emits s t [.sel, .xfer (0x20 ||| c) a, .xfer 0x01 b, .xfer 0x00 r, .desel] ∧
      Returns s t (.byte r) ∧ BusFrame s t ∧ SameMemory s t ∧
      (∀ v rest, (channelAtSelect s (c.extractLsb' 0 2)).rq = v :: rest → r = v) ∧
      t.periph.get (c.extractLsb' 0 2) =
        { channelAtSelect s (c.extractLsb' 0 2) with rq := (channelAtSelect s (c.extractLsb' 0 2)).rq.tail } ∧
      ∀ x, x ≠ c.extractLsb' 0 2 → t.periph.get x = channelAtSelect s x) ∧
    (4 ≤ c.toNat → exec (.rxb c) s = .next { s with returned := s.returned ++ [⟨s.grant, .byte 0x00⟩] })

/-- R132: RXN on a channel 0..3 into a host buffer of at least `len` bytes: all `len` bytes are exchanged in the one bracket
and removed from RQ[c]; they are the queued bytes, oldest first, and open beyond them; byte `k` received is stored at index
`k`, and every other byte of host memory stays. A length of 0 brackets all the same, and changes no queue (log entry 19). On a
channel of 4 or more: no event, no byte stored. -/
def Obligations.RxnCompletes : Prop :=
  ∀ (s : State) (c len : Byte) (dst : Ref),
    (c.toNat < 4 → bufferHolds s dst len = true → ∃ a b bs t,
      exec (.rxn c len dst) s = .next t ∧
      Emits s t ([.sel, .xfer (0x20 ||| c) a, .xfer len b] ++ received bs ++ [.desel]) ∧
      Returns s t .nothing ∧ BufferFrame s t ∧ bs.length = len.toNat ∧
      (∀ k, k < len.toNat → bs[k]? = some (Memory.read t.mem (bufferAddr dst k))) ∧
      (∀ x, (∀ k, k < len.toNat → x ≠ bufferAddr dst k) → Memory.read t.mem x = Memory.read s.mem x) ∧
      bs.take (channelAtSelect s (c.extractLsb' 0 2)).rq.length =
        (channelAtSelect s (c.extractLsb' 0 2)).rq.take len.toNat ∧
      t.periph.get (c.extractLsb' 0 2) =
        { channelAtSelect s (c.extractLsb' 0 2) with
          rq := (channelAtSelect s (c.extractLsb' 0 2)).rq.drop len.toNat } ∧
      ∀ x, x ≠ c.extractLsb' 0 2 → t.periph.get x = channelAtSelect s x) ∧
    (4 ≤ c.toNat → exec (.rxn c len dst) s = .next { s with returned := s.returned ++ [⟨s.grant, .nothing⟩] })

/-- R133: TXB on a channel 0..3 sends the byte unchanged, whatever its value, and it is appended to TQ[c] where the queue
takes it (a queue that overflows is open, I11; that an overflow is a draw, log entry 18); on a channel of 4 or more: no event. -/
def Obligations.TxbCompletes : Prop :=
  ∀ (s : State) (c v : Byte),
    (c.toNat < 4 → ∃ a b r t,
      exec (.txb c v) s = .next t ∧ Emits s t [.sel, .xfer (0x40 ||| c) a, .xfer 0x01 b, .xfer v r, .desel] ∧
      Returns s t .nothing ∧ BusFrame s t ∧ SameMemory s t ∧
      (TxRoom s (c.extractLsb' 0 2) 1 →
        (t.periph.get (c.extractLsb' 0 2)).tq = (channelAtSelect s (c.extractLsb' 0 2)).tq ++ [v]) ∧
      (t.periph.get (c.extractLsb' 0 2)).rq = (channelAtSelect s (c.extractLsb' 0 2)).rq ∧
      (t.periph.get (c.extractLsb' 0 2)).baud = (channelAtSelect s (c.extractLsb' 0 2)).baud ∧
      ∀ x, x ≠ c.extractLsb' 0 2 → t.periph.get x = channelAtSelect s x) ∧
    (4 ≤ c.toNat → exec (.txb c v) s = .next { s with returned := s.returned ++ [⟨s.grant, .nothing⟩] })

/-- R134: TXN on a channel 0..3 from a host buffer of at least `len` bytes sends bytes 0 to len-1 of the buffer in order and
leaves the buffer as it was; they are appended to TQ[c] where it takes them (that an overflow is a draw, log entry 18). A length
of 0 brackets all the same, and changes no queue (log entry 19). On a channel of 4 or more: no event. -/
def Obligations.TxnCompletes : Prop :=
  ∀ (s : State) (c len : Byte) (src : Ref),
    (c.toNat < 4 → bufferHolds s src len = true → ∃ a b ss t,
      exec (.txn c len src) s = .next t ∧ ss.length = len.toNat ∧
      Emits s t ([.sel, .xfer (0x40 ||| c) a, .xfer len b] ++
        sentWith ((List.range len.toNat).map fun k => Memory.read s.mem (bufferAddr src k)) ss ++ [.desel]) ∧
      Returns s t .nothing ∧ BusFrame s t ∧ SameMemory s t ∧
      (TxRoom s (c.extractLsb' 0 2) len.toNat →
        (t.periph.get (c.extractLsb' 0 2)).tq = (channelAtSelect s (c.extractLsb' 0 2)).tq ++
          (List.range len.toNat).map fun k => Memory.read s.mem (bufferAddr src k)) ∧
      (t.periph.get (c.extractLsb' 0 2)).rq = (channelAtSelect s (c.extractLsb' 0 2)).rq ∧
      (t.periph.get (c.extractLsb' 0 2)).baud = (channelAtSelect s (c.extractLsb' 0 2)).baud ∧
      ∀ x, x ≠ c.extractLsb' 0 2 → t.periph.get x = channelAtSelect s x) ∧
    (4 ≤ c.toNat → exec (.txn c len src) s = .next { s with returned := s.returned ++ [⟨s.grant, .nothing⟩] })

/-- R135: SETBAUD on a channel 0..3 with a code of 0..9: exactly the two-byte command, then the wait; `settle_t0` is the clock
sample taken as the bracket closes (R136), the operation returns at a clock at least 20 ms later, and BAUD[c] is the code. On a
channel of 4 or more, or with a code of 10 or more: no event, no wait, no register change. The model's choice: that the sample
is the clock moved by one free amount, that of the draw after the bracket's three (log entry 7). -/
def Obligations.SetBaudCompletes : Prop :=
  ∀ (s : State) (c code : Byte),
    (c.toNat < 4 → code.toNat < 10 → ∃ a b t,
      exec (.setBaud c code) s = .next t ∧
      Emits s t [.sel, .xfer (0x80 ||| c) a, .xfer code b, .desel, .wait 20] ∧
      Returns s t .nothing ∧ SettleFrame s t ∧ SameMemory s t ∧
      t.settleT0 = s.clock + clockAdvance s.env (s.draws + 3) ∧ 20 ≤ (elapsed t.clock t.settleT0).toNat ∧
      (t.periph.get (c.extractLsb' 0 2)).baud.val = code.toNat ∧
      (t.periph.get (c.extractLsb' 0 2)).rq = (channelAtSelect s (c.extractLsb' 0 2)).rq ∧
      (t.periph.get (c.extractLsb' 0 2)).tq = (channelAtSelect s (c.extractLsb' 0 2)).tq ∧
      ∀ x, x ≠ c.extractLsb' 0 2 → t.periph.get x = channelAtSelect s x) ∧
    (4 ≤ c.toNat ∨ 10 ≤ code.toNat →
      exec (.setBaud c code) s = .next { s with returned := s.returned ++ [⟨s.grant, .nothing⟩] })

/-- R120: an operation on a channel of 4 or more performs no bus event, writes no register and no host byte, and returns its
default result, whatever its other operands. -/
def Obligations.AbsentChannelIsNoOp : Prop :=
  ∀ (s : State) (c v len code : Byte) (r : Ref), 4 ≤ c.toNat →
    exec (.qrd c) s = .next { s with returned := s.returned ++ [⟨s.grant, .byte 0x00⟩] } ∧
    exec (.qtd c) s = .next { s with returned := s.returned ++ [⟨s.grant, .byte 0x00⟩] } ∧
    exec (.rxb c) s = .next { s with returned := s.returned ++ [⟨s.grant, .byte 0x00⟩] } ∧
    exec (.rxn c len r) s = .next { s with returned := s.returned ++ [⟨s.grant, .nothing⟩] } ∧
    exec (.txb c v) s = .next { s with returned := s.returned ++ [⟨s.grant, .nothing⟩] } ∧
    exec (.txn c len r) s = .next { s with returned := s.returned ++ [⟨s.grant, .nothing⟩] } ∧
    exec (.setBaud c code) s = .next { s with returned := s.returned ++ [⟨s.grant, .nothing⟩] }

/-- R64: a buffer operation on a channel 0..3 whose host buffer is shorter than `len` is refused. -/
def Obligations.ShortBufferRefused : Prop :=
  ∀ (s : State) (c len : Byte) (r : Ref), c.toNat < 4 → bufferSize s r < len.toNat →
    exec (.rxn c len r) s = .refused (.bufferTooShort r len) ∧ exec (.txn c len r) s = .refused (.bufferTooShort r len)

/-! ## Channel Views (42_channel_view.md) -/

/-- R170: each of AVAIL, READ, READN, WRITE, WRITEN and BEGIN has exactly the effect, transcript and result of one bridge
operation on `view_chan[k]`; a view index of NVIEW or more is refused. -/
def Obligations.ViewOperationsAreBridgeOperations : Prop :=
  ∀ (s : State) (k v len : Byte) (r : Ref) (rate : Rate),
    (∀ c : Byte, s.viewChan[k.toNat]? = some c →
      exec (.avail k) s = exec (.qrd c) s ∧ exec (.read k) s = exec (.rxb c) s ∧
      exec (.readn k len r) s = exec (.rxn c len r) s ∧ exec (.write k v) s = exec (.txb c v) s ∧
      exec (.writen k len r) s = exec (.txn c len r) s ∧
      exec (.beginRate k rate) s = exec (.setBaud c (rate2code rate)) s) ∧
    (s.viewChan.length ≤ k.toNat →
      exec (.avail k) s = .refused (.noSuchView k) ∧ exec (.read k) s = .refused (.noSuchView k) ∧
      exec (.readn k len r) s = .refused (.noSuchView k) ∧ exec (.write k v) s = .refused (.noSuchView k) ∧
      exec (.writen k len r) s = .refused (.noSuchView k) ∧ exec (.beginRate k rate) s = .refused (.noSuchView k))

/-- R171, R172, R174, R176: AVAIL, READ, WRITE and BEGIN of a view on a channel 0..3 complete, each with its bracket and its
result; BEGIN emits a bracket and a wait for every rate. -/
def Obligations.ViewByteOperationsComplete : Prop :=
  ∀ (s : State) (k v c : Byte) (rate : Rate), s.viewChan[k.toNat]? = some c → c.toNat < 4 →
    (∃ a n t, exec (.avail k) s = .next t ∧ Emits s t [.sel, .xfer (0x10 ||| c) a, .xfer 0x00 n, .desel] ∧
      Returns s t (.byte n) ∧ BusFrame s t ∧ SameMemory s t) ∧
    (∃ a b r t, exec (.read k) s = .next t ∧
      Emits s t [.sel, .xfer (0x20 ||| c) a, .xfer 0x01 b, .xfer 0x00 r, .desel] ∧
      Returns s t (.byte r) ∧ BusFrame s t ∧ SameMemory s t) ∧
    (∃ a b r t, exec (.write k v) s = .next t ∧
      Emits s t [.sel, .xfer (0x40 ||| c) a, .xfer 0x01 b, .xfer v r, .desel] ∧
      Returns s t .nothing ∧ BusFrame s t ∧ SameMemory s t) ∧
    (∃ a b t, exec (.beginRate k rate) s = .next t ∧
      Emits s t [.sel, .xfer (0x80 ||| c) a, .xfer (rate2code rate) b, .desel, .wait 20] ∧
      Returns s t .nothing ∧ SettleFrame s t ∧ SameMemory s t ∧ 20 ≤ (elapsed t.clock t.settleT0).toNat)

/-- R173, R175: READN and WRITEN of a view on a channel 0..3 with a host buffer of at least `len` bytes complete. -/
def Obligations.ViewBufferOperationsComplete : Prop :=
  ∀ (s : State) (k len c : Byte) (r : Ref), s.viewChan[k.toNat]? = some c → c.toNat < 4 → bufferHolds s r len = true →
    (∃ a b bs t, exec (.readn k len r) s = .next t ∧
      Emits s t ([.sel, .xfer (0x20 ||| c) a, .xfer len b] ++ received bs ++ [.desel]) ∧
      Returns s t .nothing ∧ BufferFrame s t ∧ bs.length = len.toNat ∧
      (∀ j, j < len.toNat → bs[j]? = some (Memory.read t.mem (bufferAddr r j))) ∧
      (∀ x, (∀ j, j < len.toNat → x ≠ bufferAddr r j) → Memory.read t.mem x = Memory.read s.mem x)) ∧
    (∃ a b ss t, exec (.writen k len r) s = .next t ∧ ss.length = len.toNat ∧
      Emits s t ([.sel, .xfer (0x40 ||| c) a, .xfer len b] ++
        sentWith ((List.range len.toNat).map fun j => Memory.read s.mem (bufferAddr r j)) ss ++ [.desel]) ∧
      Returns s t .nothing ∧ BusFrame s t ∧ SameMemory s t)

/-- R178, R179: PEEK and PARSE of any view answer 0xFFFF with no bus event and change nothing else. -/
def Obligations.PeekAndParseAnswerNotAvailable : Prop :=
  ∀ (s : State) (k : Byte), k.toNat < s.viewChan.length →
    exec (.peek k) s = .next { s with returned := s.returned ++ [⟨s.grant, .half 0xFFFF⟩] } ∧
    exec (.parse k) s = .next { s with returned := s.returned ++ [⟨s.grant, .half 0xFFFF⟩] }

/-- R180: every operation of a view on a channel of 4 or more is a no-op on the bus, with the results of the rule. -/
def Obligations.AbsentViewIsNoOp : Prop :=
  ∀ (s : State) (k v len c : Byte) (r : Ref) (rate : Rate), s.viewChan[k.toNat]? = some c → 4 ≤ c.toNat →
    exec (.avail k) s = .next { s with returned := s.returned ++ [⟨s.grant, .byte 0x00⟩] } ∧
    exec (.read k) s = .next { s with returned := s.returned ++ [⟨s.grant, .byte 0x00⟩] } ∧
    exec (.readn k len r) s = .next { s with returned := s.returned ++ [⟨s.grant, .nothing⟩] } ∧
    exec (.write k v) s = .next { s with returned := s.returned ++ [⟨s.grant, .nothing⟩] } ∧
    exec (.writen k len r) s = .next { s with returned := s.returned ++ [⟨s.grant, .nothing⟩] } ∧
    exec (.beginRate k rate) s = .next { s with returned := s.returned ++ [⟨s.grant, .nothing⟩] } ∧
    exec (.peek k) s = .next { s with returned := s.returned ++ [⟨s.grant, .half 0xFFFF⟩] } ∧
    exec (.parse k) s = .next { s with returned := s.returned ++ [⟨s.grant, .half 0xFFFF⟩] }

/-- R177: `rate2code` on the eight rates of the table, the default code 3 for every other rate, and never code 8 or 9. -/
def Obligations.RateToCodeTable : Prop :=
  rate2code 1200 = 0 ∧ rate2code 2400 = 1 ∧ rate2code 4800 = 2 ∧ rate2code 9600 = 3 ∧ rate2code 19200 = 4 ∧
  rate2code 38400 = 5 ∧ rate2code 57600 = 6 ∧ rate2code 115200 = 7 ∧
  (∀ rate : Rate, rate ∉ ([1200, 2400, 4800, 9600, 19200, 38400, 57600, 115200] : List Rate) → rate2code rate = 3) ∧
  (∀ rate : Rate, (rate2code rate).toNat < 8) ∧
  (∀ code : Fin 10, code.val < 8 → rate2code (lineRate code) = BitVec.ofNat 8 code.val)

/-! ## The sensor session (43_sensor_session.md) -/

/-- R218: the checksum is `(0xFF + hi + lo) mod 256`, equivalently `(hi + lo - 1) mod 256`, with the rule's four examples; and
no byte that differs from it in one bit equals it (the corner case of R207). -/
def Obligations.ChecksumArithmetic : Prop :=
  (∀ hi lo : Byte,
    (frameChecksum hi lo).toNat = (255 + hi.toNat + lo.toNat) % 256 ∧ frameChecksum hi lo = hi + lo - 1 ∧
    ∀ i, i < 8 → frameChecksum hi lo ^^^ (1#8 <<< i) ≠ frameChecksum hi lo) ∧
  frameChecksum 0x00 0x64 = 0x63 ∧ frameChecksum 0x01 0x00 = 0x00 ∧ frameChecksum 0x00 0x00 = 0xFF ∧
  frameChecksum 0xFF 0xFF = 0xFD

/-- R63, R109: the distance is big-endian, `hi * 256 + lo`, clamped to at least 30, with no upper bound. -/
def Obligations.DistanceArithmetic : Prop :=
  ∀ hi lo : Byte, (rawDistance hi lo).toNat = hi.toNat * 256 + lo.toNat ∧
    (decodedDistance hi lo).toNat = max 30 (hi.toNat * 256 + lo.toNat)

/-- R202: a READDIST whose elapsed time is below 100 returns the stored result and does nothing else but sample the clock;
one whose elapsed time is 100 or more begins with the depth query of R203. -/
def Obligations.ThrottleRule : Prop :=
  ∀ (s : State) (c : Byte), s.viewChan[s.sessView.toNat]? = some c →
    ((elapsed (now s).1 s.lastReadMs).toNat < 100 → exec .readDist s = .next { s with
      clock := (now s).1, draws := s.draws + 1, returned := s.returned ++ [⟨s.grant, .code s.result⟩] }) ∧
    (100 ≤ (elapsed (now s).1 s.lastReadMs).toNat → c.toNat < 4 → ∃ a n more t, exec .readDist s = .next t ∧
      Emits s t ([.sel, .xfer (0x10 ||| c) a, .xfer 0x00 n, .desel] ++ more))

/-- R203: the first stream access of an admitted READDIST is one depth query. Where it answers fewer than 4 the attempt ends
there: status FRAME_TOO_SHORT, result INCOMPLETE_FRAME, the attempt's timestamp, that one bracket, nothing consumed, no other
register. Where it answers 4 or more the call goes on: the scan's depth query follows. -/
def Obligations.FrameTooShort : Prop :=
  ∀ (s : State) (c : Byte), s.viewChan[s.sessView.toNat]? = some c → c.toNat < 4 →
    100 ≤ (elapsed (now s).1 s.lastReadMs).toNat →
    ((queryReceiveDepth c (now s).2).1.toNat < 4 → ∃ a t,
      exec .readDist s = .next t ∧
      Emits s t [.sel, .xfer (0x10 ||| c) a, .xfer 0x00 (queryReceiveDepth c (now s).2).1, .desel] ∧
      Returns s t (.code 4) ∧
      t = { s with
        sel := false, bstate := .idle, session := .idle, status := 2, result := 4, lastReadMs := (now s).1,
        clock := (now s).1, periph := t.periph, draws := t.draws, transcript := t.transcript, returned := t.returned } ∧
      ∀ x, t.periph.get x = channelAtSelect (now s).2 x) ∧
    (4 ≤ (queryReceiveDepth c (now s).2).1.toNat → ∃ a b n more t,
      exec .readDist s = .next t ∧
      Emits s t ([.sel, .xfer (0x10 ||| c) a, .xfer 0x00 (queryReceiveDepth c (now s).2).1, .desel,
        .sel, .xfer (0x10 ||| c) b, .xfer 0x00 n, .desel] ++ more))

/-- R221, R180: a session whose view is on a channel of 4 or more: an admitted READDIST has no bus event and ends in
FRAME_TOO_SHORT. -/
def Obligations.AbsentSessionChannel : Prop :=
  ∀ (s : State) (c : Byte), s.viewChan[s.sessView.toNat]? = some c → 4 ≤ c.toNat →
    100 ≤ (elapsed (now s).1 s.lastReadMs).toNat →
    exec .readDist s = .next { s with
      clock := (now s).1, draws := s.draws + 1, session := .idle, status := 2, result := 4, lastReadMs := (now s).1,
      returned := s.returned ++ [⟨s.grant, .code 4⟩] }

/-- R201, R209, R210: READDIST completes for every answer of the peripheral and every clock sample: a throttled call
returns the stored result; an attempt that has ended has stamped `last_read_ms` with its sample, returned the result it
stored, and left one of the outcomes of R203 to R208; an attempt whose scan still runs (R204, R271) has written no session
register and returned nothing. In every case only the registers R201 lists, a bracket's changes, the clock and the
reply differ from before. -/
def Obligations.ReadDistOutcomes : Prop :=
  ∀ (s : State) (c : Byte), s.viewChan[s.sessView.toNat]? = some c → ∃ t, exec .readDist s = .next t ∧
    t = { s with
      sel := t.sel, bstate := t.bstate, session := t.session, status := t.status, result := t.result,
      distance := t.distance, lastReadMs := t.lastReadMs, lastSuccessMs := t.lastSuccessMs, clock := (now s).1,
      periph := t.periph, draws := t.draws, transcript := t.transcript, returned := t.returned } ∧
    (((elapsed (now s).1 s.lastReadMs).toNat < 100 ∧ SameSession s t ∧ Returns s t (.code s.result) ∧
        t.session = s.session ∧ t.transcript = s.transcript) ∨
      (100 ≤ (elapsed (now s).1 s.lastReadMs).toNat ∧ t.session = .scanning (now s).1 ∧ SameSession s t ∧
        t.returned = s.returned) ∨
      (100 ≤ (elapsed (now s).1 s.lastReadMs).toNat ∧ t.session = .idle ∧ t.lastReadMs = (now s).1 ∧
        Returns s t (.code t.result) ∧
        (((t.status, t.result) ∈ [((2 : Code), (4 : Code)), (3, 3), (4, 4), (1, 2)] ∧
            t.distance = s.distance ∧ t.lastSuccessMs = s.lastSuccessMs) ∨
          (t.status = 1 ∧ t.result = 1 ∧ t.lastSuccessMs = (now s).1 ∧
            ∃ hi lo : Byte, t.distance = decodedDistance hi lo))))

/-- R204 to R210, R221, R266, R268: a READDIST in progress is continued by the next step, and by nothing else, from the clock
sample it took (that a scan is carried over steps is the model's choice, log entry 13). On a channel 0..3 that step has emitted
either one or more scan steps that found no header, with no session register written and nothing returned, and the scan still runs; or
such steps and then one of the ends of a scan, which with its bytes decides the registers and the result. On a channel of 4
or more the scan ends with no event: there is no byte. In every case the mode, the mode-select line, host memory, `settle_t0`,
the clock, the requests and the configuration stay. -/
def Obligations.ScanContinues : Prop :=
  ∀ (s : State) (c : Byte) (t0 : Clock), s.bstate = .idle → s.session = .scanning t0 →
    s.viewChan[s.sessView.toNat]? = some c → ∃ t, step s = .next t ∧ AttemptFrame s t ∧
      (c.toNat < 4 →
        (t.session = .scanning t0 ∧ SameSession s t ∧ t.returned = s.returned ∧
            ∃ sk, Skipped c sk ∧ sk ≠ [] ∧ Emits s t sk) ∨
        (t.session = .idle ∧ ∃ e es, ScanEvents c e es ∧ Emits s t es ∧ AttemptLeaves t0 e s t)) ∧
      (4 ≤ c.toNat → t.session = .idle ∧ Emits s t [] ∧ AttemptLeaves t0 .noHeader s t)

/-- R203 to R210 and R221 in every environment, for a whole attempt: begun by READDIST and continued by any number of later
steps while its scan runs (log entry 13), with the host's requests and buffers as the host likes between them. Where it has
ended its transcript consists of whole brackets in the order of R221, and the counts and bytes it shows decide the registers
and the result, by the clock sample READDIST took. Where its scan still runs, its transcript is a beginning of such a one, no
session register is written and nothing returned. -/
def Obligations.AttemptFollowsItsTranscript : Prop :=
  ∀ (s u t : State) (c : Byte), s.viewChan[s.sessView.toNat]? = some c → c.toNat < 4 →
    100 ≤ (elapsed (now s).1 s.lastReadMs).toNat → exec .readDist s = .next u → Resumed u t →
    (t.session = .scanning (now s).1 ∧ SameSession s t ∧ t.returned = s.returned ∧
        ∃ es, AttemptBegun c es ∧ Emits s t es) ∨
      (t.session = .idle ∧ ∃ e es, AttemptEvents c e es ∧ Emits s t es ∧ AttemptLeaves (now s).1 e s t)

/-- At the reference peripheral (R264) the header scan ends within the call, so READDIST is one whole step (R5). -/
def Obligations.ReferenceReadDistEnds : Prop :=
  ∀ (s : State) (c : Byte), s.env = .reference → s.session = .idle → s.viewChan[s.sessView.toNat]? = some c →
    ∃ t, exec .readDist s = .next t ∧ t.session = .idle

/-- R204 to R209 end to end at the reference peripheral: a stream that holds bytes without a header, then a frame with its
checksum, then more: an admitted READDIST discards the bytes before the frame, decodes it and leaves the rest queued. That
the reference clock stands still (95_test_vectors.md section 0, log entry 6) makes both timestamps the clock as it was. -/
def Obligations.ReferenceFrameDecodes : Prop :=
  ∀ (s : State) (c : Byte) (cc : Chan) (before rest : List Byte) (hi lo : Byte),
    s.env = .reference → s.viewChan[s.sessView.toNat]? = some c → channel? c = some cc →
    100 ≤ (elapsed s.clock s.lastReadMs).toNat →
    (s.periph.get cc).rq = before ++ Config.header :: hi :: lo :: frameChecksum hi lo :: rest → Config.header ∉ before →
    ∃ t, exec .readDist s = .next t ∧ t.session = .idle ∧ t.status = 1 ∧ t.result = 1 ∧ Returns s t (.code 1) ∧
      t.distance.toNat = max 30 (hi.toNat * 256 + lo.toNat) ∧ t.lastSuccessMs = s.clock ∧ t.lastReadMs = s.clock ∧
      (t.periph.get cc).rq = rest ∧ t.mode = s.mode ∧ SameMemory s t

/-- The same stream with any other checksum byte: CHECKSUM_MISMATCH, the distance and the success timestamp unchanged, the
frame consumed (R206, R207). That the reference clock stands still (95_test_vectors.md section 0, log entry 6) makes the sample
the clock as it was. -/
def Obligations.ReferenceChecksumMismatch : Prop :=
  ∀ (s : State) (c : Byte) (cc : Chan) (before rest : List Byte) (hi lo cs : Byte),
    s.env = .reference → s.viewChan[s.sessView.toNat]? = some c → channel? c = some cc →
    100 ≤ (elapsed s.clock s.lastReadMs).toNat →
    (s.periph.get cc).rq = before ++ Config.header :: hi :: lo :: cs :: rest → Config.header ∉ before →
    cs ≠ frameChecksum hi lo →
    ∃ t, exec .readDist s = .next t ∧ t.session = .idle ∧ t.status = 1 ∧ t.result = 2 ∧ Returns s t (.code 2) ∧
      t.distance = s.distance ∧ t.lastSuccessMs = s.lastSuccessMs ∧ t.lastReadMs = s.clock ∧ (t.periph.get cc).rq = rest

/-- R204 and R205 at the reference peripheral: four bytes or more without a header are all consumed and give
HEADER_NOT_FOUND; a header with fewer than 3 bytes behind it is consumed and gives INCOMPLETE_FRAME. That the reference clock
stands still (95_test_vectors.md section 0, log entry 6) makes `last_read_ms` the clock as it was. -/
def Obligations.ReferenceScanFailures : Prop :=
  ∀ (s : State) (c : Byte) (cc : Chan) (before after : List Byte),
    s.env = .reference → s.viewChan[s.sessView.toNat]? = some c → channel? c = some cc →
    100 ≤ (elapsed s.clock s.lastReadMs).toNat → Config.header ∉ before →
    ((s.periph.get cc).rq = before → 4 ≤ before.length →
      ∃ t, exec .readDist s = .next t ∧ t.session = .idle ∧ t.status = 3 ∧ t.result = 3 ∧ Returns s t (.code 3) ∧
        t.lastReadMs = s.clock ∧ t.distance = s.distance ∧ t.lastSuccessMs = s.lastSuccessMs ∧
        (t.periph.get cc).rq = []) ∧
    ((s.periph.get cc).rq = before ++ Config.header :: after → after.length < 3 → 4 ≤ before.length + 1 + after.length →
      ∃ t, exec .readDist s = .next t ∧ t.session = .idle ∧ t.status = 4 ∧ t.result = 4 ∧ Returns s t (.code 4) ∧
        t.lastReadMs = s.clock ∧ t.distance = s.distance ∧ t.lastSuccessMs = s.lastSuccessMs ∧
        (t.periph.get cc).rq = after)

/-- R221: a frame whose header is the first byte of the stream and whose four bytes are all queued costs exactly the seven
brackets QRD, QRD, RXB, QRD, RXB, RXB, RXB (the answers are those of the reference peripheral, R264). That the reference clock
stands still (95_test_vectors.md section 0, log entry 6) makes a call at 100 ms an admitted one. -/
def Obligations.WholeFrameCostsSevenBrackets : Prop :=
  ∀ (s : State) (c : Byte) (cc : Chan) (rest : List Byte) (hi lo cs : Byte),
    s.env = .reference → s.viewChan[s.sessView.toNat]? = some c → channel? c = some cc →
    100 ≤ (elapsed s.clock s.lastReadMs).toNat → (s.periph.get cc).rq = Config.header :: hi :: lo :: cs :: rest →
    ∃ t, exec .readDist s = .next t ∧
      Emits s t (
        [.sel, .xfer (0x10 ||| c) 0x00, .xfer 0x00 (BitVec.ofNat 8 (min (4 + rest.length) 255)), .desel] ++
        [.sel, .xfer (0x10 ||| c) 0x00, .xfer 0x00 (BitVec.ofNat 8 (min (4 + rest.length) 255)), .desel] ++
        [.sel, .xfer (0x20 ||| c) 0x00, .xfer 0x01 0x00, .xfer 0x00 Config.header, .desel] ++
        [.sel, .xfer (0x10 ||| c) 0x00, .xfer 0x00 (BitVec.ofNat 8 (min (3 + rest.length) 255)), .desel] ++
        [.sel, .xfer (0x20 ||| c) 0x00, .xfer 0x01 0x00, .xfer 0x00 hi, .desel] ++
        [.sel, .xfer (0x20 ||| c) 0x00, .xfer 0x01 0x00, .xfer 0x00 lo, .desel] ++
        [.sel, .xfer (0x20 ||| c) 0x00, .xfer 0x01 0x00, .xfer 0x00 cs, .desel])

/-- R211: SETPROC writes the mode, drives the line to it with one MODE event, even where the level does not change, and
touches nothing else. -/
def Obligations.SetProcCompletes : Prop :=
  ∀ (s : State) (b : Bool), exec (.setProc b) s = .next { s with
    mode := b, modeLine := b, transcript := s.transcript ++ [.mode b],
    returned := s.returned ++ [⟨s.grant, .nothing⟩] }

/-- R212 to R217: each getter returns its register and writes none. -/
def Obligations.GettersComplete : Prop :=
  ∀ s : State,
    exec .getDist s = .next { s with returned := s.returned ++ [⟨s.grant, .half s.distance⟩] } ∧
    exec .getLr s = .next { s with returned := s.returned ++ [⟨s.grant, .stamp s.lastReadMs⟩] } ∧
    exec .getLs s = .next { s with returned := s.returned ++ [⟨s.grant, .stamp s.lastSuccessMs⟩] } ∧
    exec .getStat s = .next { s with returned := s.returned ++ [⟨s.grant, .code s.status⟩] } ∧
    exec .getRes s = .next { s with returned := s.returned ++ [⟨s.grant, .code s.result⟩] } ∧
    exec .getMode s = .next { s with returned := s.returned ++ [⟨s.grant, .bit s.mode⟩] }

/-! ## Rules of the whole machine -/

/-- R30: no operation but READDIST writes `status`, `result`, `distance`, `last_read_ms` or `last_success_ms`, and none but
SETPROC writes `mode` or drives the mode-select line. -/
def Obligations.SessionRegisterWriters : Prop :=
  ∀ (i : Instr) (s t : State), exec i s = .next t →
    (i ≠ .readDist → SameSession s t) ∧ ((∀ b, i ≠ .setProc b) → t.mode = s.mode ∧ t.modeLine = s.modeLine)

/-- R64 (frame of host memory): no operation but RXN and READN changes a byte of host memory, and those two change none
outside the first `len` bytes of their buffer. -/
def Obligations.HostMemoryWriters : Prop :=
  ∀ (i : Instr) (s t : State), exec i s = .next t → ∀ x,
    (∀ c len dst, (i = .rxn c len dst ∨ i = .readn c len dst) → ∀ k, k < len.toNat → x ≠ bufferAddr dst k) →
    Memory.read t.mem x = Memory.read s.mem x

/-- R31, R32: no step writes the configuration: the views' channels and the session's view; nor the host's buffer list, the
kind of environment and the peripheral's capacity. -/
def Obligations.ConfigurationNeverWritten : Prop :=
  ∀ s t : State, step s = .next t →
    t.viewChan = s.viewChan ∧ t.sessView = s.sessView ∧ t.buffers = s.buffers ∧ t.env = s.env ∧
      t.periph.qcap = s.periph.qcap

/-- R71: a step only appends to the transcript and to the results, and returns at most one result. -/
def Obligations.HistoryOnlyGrows : Prop :=
  ∀ s t : State, step s = .next t →
    (∃ events, Emits s t events) ∧ ∃ replies : List Reply, t.returned = s.returned ++ replies ∧ replies.length ≤ 1

/-- The register invariant holds after reset, whatever the block was created with (the peripheral not selected). -/
def Obligations.RegisterInvAfterReset : Prop :=
  ∀ u : Setup, u.periph.phase = .off → RegisterInv (State.created u)

/-- Every step keeps the register invariant (R22, R24 to R29, R44, R121). -/
def Obligations.StepKeepsRegisterInv : Prop :=
  ∀ s t : State, RegisterInv s → step s = .next t → RegisterInv t

/-- Every step keeps the transcript a sequence of whole brackets of the shapes of R93, each set-baud bracket followed by its
wait before any other bus event, with no event of another operation inside a bracket (R72, R98, R285, R290). -/
def Obligations.StepKeepsTranscriptBracketed : Prop :=
  ∀ s t : State, wellBracketed s.transcript = true → step s = .next t → wellBracketed t.transcript = true

/-- Every step keeps host memory in its canonical form (the model's representation, log entry 4). -/
def Obligations.StepKeepsMemoryCanonical : Prop :=
  ∀ s t : State, Memory.wf s.mem = true → step s = .next t → Memory.wf t.mem = true

/-- Whatever configuration and external state the block is created with, whatever requests the host presents and whatever it
does with its buffers: in every state a run reaches, the register invariant holds, the transcript is a sequence of whole
brackets, and host memory is canonical (that form is the model's choice, log entry 4). -/
def Obligations.RunsKeepInvariants : Prop :=
  ∀ (u : Setup) (t : State), u.periph.phase = .off → Memory.wf u.mem = true → Run (State.created u) t →
    RegisterInv t ∧ wellBracketed t.transcript = true ∧ Memory.wf t.mem = true
end

