-- ==== Sys2Proof/Laws/State.lean ====
section
/-! SUPPORT. The fields of the state after each update: what the update writes, and that it leaves every other field. -/

namespace Sys2Proof.Machine.State

/-! ## emit -/

@[simp] theorem emit_sel (s : State) (e : Event) : (s.emit e).sel = s.sel := rfl
@[simp] theorem emit_bstate (s : State) (e : Event) : (s.emit e).bstate = s.bstate := rfl
@[simp] theorem emit_settleT0 (s : State) (e : Event) : (s.emit e).settleT0 = s.settleT0 := rfl
@[simp] theorem emit_status (s : State) (e : Event) : (s.emit e).status = s.status := rfl
@[simp] theorem emit_result (s : State) (e : Event) : (s.emit e).result = s.result := rfl
@[simp] theorem emit_distance (s : State) (e : Event) : (s.emit e).distance = s.distance := rfl
@[simp] theorem emit_mode (s : State) (e : Event) : (s.emit e).mode = s.mode := rfl
@[simp] theorem emit_lastReadMs (s : State) (e : Event) : (s.emit e).lastReadMs = s.lastReadMs := rfl
@[simp] theorem emit_lastSuccessMs (s : State) (e : Event) : (s.emit e).lastSuccessMs = s.lastSuccessMs := rfl
@[simp] theorem emit_modeLine (s : State) (e : Event) : (s.emit e).modeLine = s.modeLine := rfl
@[simp] theorem emit_session (s : State) (e : Event) : (s.emit e).session = s.session := rfl
@[simp] theorem emit_viewChan (s : State) (e : Event) : (s.emit e).viewChan = s.viewChan := rfl
@[simp] theorem emit_sessView (s : State) (e : Event) : (s.emit e).sessView = s.sessView := rfl
@[simp] theorem emit_clock (s : State) (e : Event) : (s.emit e).clock = s.clock := rfl
@[simp] theorem emit_periph (s : State) (e : Event) : (s.emit e).periph = s.periph := rfl
@[simp] theorem emit_mem (s : State) (e : Event) : (s.emit e).mem = s.mem := rfl
@[simp] theorem emit_buffers (s : State) (e : Event) : (s.emit e).buffers = s.buffers := rfl
@[simp] theorem emit_ports (s : State) (e : Event) : (s.emit e).ports = s.ports := rfl
@[simp] theorem emit_grant (s : State) (e : Event) : (s.emit e).grant = s.grant := rfl
@[simp] theorem emit_transcript (s : State) (e : Event) : (s.emit e).transcript = s.transcript ++ [e] := rfl
@[simp] theorem emit_returned (s : State) (e : Event) : (s.emit e).returned = s.returned := rfl
@[simp] theorem emit_env (s : State) (e : Event) : (s.emit e).env = s.env := rfl
@[simp] theorem emit_draws (s : State) (e : Event) : (s.emit e).draws = s.draws := rfl

/-! ## reply -/

@[simp] theorem reply_sel (s : State) (r : Result) : (s.reply r).sel = s.sel := rfl
@[simp] theorem reply_bstate (s : State) (r : Result) : (s.reply r).bstate = s.bstate := rfl
@[simp] theorem reply_settleT0 (s : State) (r : Result) : (s.reply r).settleT0 = s.settleT0 := rfl
@[simp] theorem reply_status (s : State) (r : Result) : (s.reply r).status = s.status := rfl
@[simp] theorem reply_result (s : State) (r : Result) : (s.reply r).result = s.result := rfl
@[simp] theorem reply_distance (s : State) (r : Result) : (s.reply r).distance = s.distance := rfl
@[simp] theorem reply_mode (s : State) (r : Result) : (s.reply r).mode = s.mode := rfl
@[simp] theorem reply_lastReadMs (s : State) (r : Result) : (s.reply r).lastReadMs = s.lastReadMs := rfl
@[simp] theorem reply_lastSuccessMs (s : State) (r : Result) : (s.reply r).lastSuccessMs = s.lastSuccessMs := rfl
@[simp] theorem reply_modeLine (s : State) (r : Result) : (s.reply r).modeLine = s.modeLine := rfl
@[simp] theorem reply_session (s : State) (r : Result) : (s.reply r).session = s.session := rfl
@[simp] theorem reply_viewChan (s : State) (r : Result) : (s.reply r).viewChan = s.viewChan := rfl
@[simp] theorem reply_sessView (s : State) (r : Result) : (s.reply r).sessView = s.sessView := rfl
@[simp] theorem reply_clock (s : State) (r : Result) : (s.reply r).clock = s.clock := rfl
@[simp] theorem reply_periph (s : State) (r : Result) : (s.reply r).periph = s.periph := rfl
@[simp] theorem reply_mem (s : State) (r : Result) : (s.reply r).mem = s.mem := rfl
@[simp] theorem reply_buffers (s : State) (r : Result) : (s.reply r).buffers = s.buffers := rfl
@[simp] theorem reply_ports (s : State) (r : Result) : (s.reply r).ports = s.ports := rfl
@[simp] theorem reply_grant (s : State) (r : Result) : (s.reply r).grant = s.grant := rfl
@[simp] theorem reply_transcript (s : State) (r : Result) : (s.reply r).transcript = s.transcript := rfl
@[simp] theorem reply_returned (s : State) (r : Result) : (s.reply r).returned = s.returned ++ [⟨s.grant, r⟩] := rfl
@[simp] theorem reply_env (s : State) (r : Result) : (s.reply r).env = s.env := rfl
@[simp] theorem reply_draws (s : State) (r : Result) : (s.reply r).draws = s.draws := rfl

/-! ## spend -/

@[simp] theorem spend_sel (s : State) : (s.spend).sel = s.sel := rfl
@[simp] theorem spend_bstate (s : State) : (s.spend).bstate = s.bstate := rfl
@[simp] theorem spend_settleT0 (s : State) : (s.spend).settleT0 = s.settleT0 := rfl
@[simp] theorem spend_status (s : State) : (s.spend).status = s.status := rfl
@[simp] theorem spend_result (s : State) : (s.spend).result = s.result := rfl
@[simp] theorem spend_distance (s : State) : (s.spend).distance = s.distance := rfl
@[simp] theorem spend_mode (s : State) : (s.spend).mode = s.mode := rfl
@[simp] theorem spend_lastReadMs (s : State) : (s.spend).lastReadMs = s.lastReadMs := rfl
@[simp] theorem spend_lastSuccessMs (s : State) : (s.spend).lastSuccessMs = s.lastSuccessMs := rfl
@[simp] theorem spend_modeLine (s : State) : (s.spend).modeLine = s.modeLine := rfl
@[simp] theorem spend_session (s : State) : (s.spend).session = s.session := rfl
@[simp] theorem spend_viewChan (s : State) : (s.spend).viewChan = s.viewChan := rfl
@[simp] theorem spend_sessView (s : State) : (s.spend).sessView = s.sessView := rfl
@[simp] theorem spend_clock (s : State) : (s.spend).clock = s.clock := rfl
@[simp] theorem spend_periph (s : State) : (s.spend).periph = s.periph := rfl
@[simp] theorem spend_mem (s : State) : (s.spend).mem = s.mem := rfl
@[simp] theorem spend_buffers (s : State) : (s.spend).buffers = s.buffers := rfl
@[simp] theorem spend_ports (s : State) : (s.spend).ports = s.ports := rfl
@[simp] theorem spend_grant (s : State) : (s.spend).grant = s.grant := rfl
@[simp] theorem spend_transcript (s : State) : (s.spend).transcript = s.transcript := rfl
@[simp] theorem spend_returned (s : State) : (s.spend).returned = s.returned := rfl
@[simp] theorem spend_env (s : State) : (s.spend).env = s.env := rfl
@[simp] theorem spend_draws (s : State) : (s.spend).draws = s.draws + 1 := rfl

/-! ## setPeriph -/

@[simp] theorem setPeriph_sel (s : State) (p : Peripheral) : (s.setPeriph p).sel = s.sel := rfl
@[simp] theorem setPeriph_bstate (s : State) (p : Peripheral) : (s.setPeriph p).bstate = s.bstate := rfl
@[simp] theorem setPeriph_settleT0 (s : State) (p : Peripheral) : (s.setPeriph p).settleT0 = s.settleT0 := rfl
@[simp] theorem setPeriph_status (s : State) (p : Peripheral) : (s.setPeriph p).status = s.status := rfl
@[simp] theorem setPeriph_result (s : State) (p : Peripheral) : (s.setPeriph p).result = s.result := rfl
@[simp] theorem setPeriph_distance (s : State) (p : Peripheral) : (s.setPeriph p).distance = s.distance := rfl
@[simp] theorem setPeriph_mode (s : State) (p : Peripheral) : (s.setPeriph p).mode = s.mode := rfl
@[simp] theorem setPeriph_lastReadMs (s : State) (p : Peripheral) : (s.setPeriph p).lastReadMs = s.lastReadMs := rfl
@[simp] theorem setPeriph_lastSuccessMs (s : State) (p : Peripheral) : (s.setPeriph p).lastSuccessMs = s.lastSuccessMs := rfl
@[simp] theorem setPeriph_modeLine (s : State) (p : Peripheral) : (s.setPeriph p).modeLine = s.modeLine := rfl
@[simp] theorem setPeriph_session (s : State) (p : Peripheral) : (s.setPeriph p).session = s.session := rfl
@[simp] theorem setPeriph_viewChan (s : State) (p : Peripheral) : (s.setPeriph p).viewChan = s.viewChan := rfl
@[simp] theorem setPeriph_sessView (s : State) (p : Peripheral) : (s.setPeriph p).sessView = s.sessView := rfl
@[simp] theorem setPeriph_clock (s : State) (p : Peripheral) : (s.setPeriph p).clock = s.clock := rfl
@[simp] theorem setPeriph_periph (s : State) (p : Peripheral) : (s.setPeriph p).periph = p := rfl
@[simp] theorem setPeriph_mem (s : State) (p : Peripheral) : (s.setPeriph p).mem = s.mem := rfl
@[simp] theorem setPeriph_buffers (s : State) (p : Peripheral) : (s.setPeriph p).buffers = s.buffers := rfl
@[simp] theorem setPeriph_ports (s : State) (p : Peripheral) : (s.setPeriph p).ports = s.ports := rfl
@[simp] theorem setPeriph_grant (s : State) (p : Peripheral) : (s.setPeriph p).grant = s.grant := rfl
@[simp] theorem setPeriph_transcript (s : State) (p : Peripheral) : (s.setPeriph p).transcript = s.transcript := rfl
@[simp] theorem setPeriph_returned (s : State) (p : Peripheral) : (s.setPeriph p).returned = s.returned := rfl
@[simp] theorem setPeriph_env (s : State) (p : Peripheral) : (s.setPeriph p).env = s.env := rfl
@[simp] theorem setPeriph_draws (s : State) (p : Peripheral) : (s.setPeriph p).draws = s.draws := rfl

/-! ## setClock -/

@[simp] theorem setClock_sel (s : State) (t : Clock) : (s.setClock t).sel = s.sel := rfl
@[simp] theorem setClock_bstate (s : State) (t : Clock) : (s.setClock t).bstate = s.bstate := rfl
@[simp] theorem setClock_settleT0 (s : State) (t : Clock) : (s.setClock t).settleT0 = s.settleT0 := rfl
@[simp] theorem setClock_status (s : State) (t : Clock) : (s.setClock t).status = s.status := rfl
@[simp] theorem setClock_result (s : State) (t : Clock) : (s.setClock t).result = s.result := rfl
@[simp] theorem setClock_distance (s : State) (t : Clock) : (s.setClock t).distance = s.distance := rfl
@[simp] theorem setClock_mode (s : State) (t : Clock) : (s.setClock t).mode = s.mode := rfl
@[simp] theorem setClock_lastReadMs (s : State) (t : Clock) : (s.setClock t).lastReadMs = s.lastReadMs := rfl
@[simp] theorem setClock_lastSuccessMs (s : State) (t : Clock) : (s.setClock t).lastSuccessMs = s.lastSuccessMs := rfl
@[simp] theorem setClock_modeLine (s : State) (t : Clock) : (s.setClock t).modeLine = s.modeLine := rfl
@[simp] theorem setClock_session (s : State) (t : Clock) : (s.setClock t).session = s.session := rfl
@[simp] theorem setClock_viewChan (s : State) (t : Clock) : (s.setClock t).viewChan = s.viewChan := rfl
@[simp] theorem setClock_sessView (s : State) (t : Clock) : (s.setClock t).sessView = s.sessView := rfl
@[simp] theorem setClock_clock (s : State) (t : Clock) : (s.setClock t).clock = t := rfl
@[simp] theorem setClock_periph (s : State) (t : Clock) : (s.setClock t).periph = s.periph := rfl
@[simp] theorem setClock_mem (s : State) (t : Clock) : (s.setClock t).mem = s.mem := rfl
@[simp] theorem setClock_buffers (s : State) (t : Clock) : (s.setClock t).buffers = s.buffers := rfl
@[simp] theorem setClock_ports (s : State) (t : Clock) : (s.setClock t).ports = s.ports := rfl
@[simp] theorem setClock_grant (s : State) (t : Clock) : (s.setClock t).grant = s.grant := rfl
@[simp] theorem setClock_transcript (s : State) (t : Clock) : (s.setClock t).transcript = s.transcript := rfl
@[simp] theorem setClock_returned (s : State) (t : Clock) : (s.setClock t).returned = s.returned := rfl
@[simp] theorem setClock_env (s : State) (t : Clock) : (s.setClock t).env = s.env := rfl
@[simp] theorem setClock_draws (s : State) (t : Clock) : (s.setClock t).draws = s.draws := rfl

/-! ## setMem -/

@[simp] theorem setMem_sel (s : State) (m : Memory) : (s.setMem m).sel = s.sel := rfl
@[simp] theorem setMem_bstate (s : State) (m : Memory) : (s.setMem m).bstate = s.bstate := rfl
@[simp] theorem setMem_settleT0 (s : State) (m : Memory) : (s.setMem m).settleT0 = s.settleT0 := rfl
@[simp] theorem setMem_status (s : State) (m : Memory) : (s.setMem m).status = s.status := rfl
@[simp] theorem setMem_result (s : State) (m : Memory) : (s.setMem m).result = s.result := rfl
@[simp] theorem setMem_distance (s : State) (m : Memory) : (s.setMem m).distance = s.distance := rfl
@[simp] theorem setMem_mode (s : State) (m : Memory) : (s.setMem m).mode = s.mode := rfl
@[simp] theorem setMem_lastReadMs (s : State) (m : Memory) : (s.setMem m).lastReadMs = s.lastReadMs := rfl
@[simp] theorem setMem_lastSuccessMs (s : State) (m : Memory) : (s.setMem m).lastSuccessMs = s.lastSuccessMs := rfl
@[simp] theorem setMem_modeLine (s : State) (m : Memory) : (s.setMem m).modeLine = s.modeLine := rfl
@[simp] theorem setMem_session (s : State) (m : Memory) : (s.setMem m).session = s.session := rfl
@[simp] theorem setMem_viewChan (s : State) (m : Memory) : (s.setMem m).viewChan = s.viewChan := rfl
@[simp] theorem setMem_sessView (s : State) (m : Memory) : (s.setMem m).sessView = s.sessView := rfl
@[simp] theorem setMem_clock (s : State) (m : Memory) : (s.setMem m).clock = s.clock := rfl
@[simp] theorem setMem_periph (s : State) (m : Memory) : (s.setMem m).periph = s.periph := rfl
@[simp] theorem setMem_mem (s : State) (m : Memory) : (s.setMem m).mem = m := rfl
@[simp] theorem setMem_buffers (s : State) (m : Memory) : (s.setMem m).buffers = s.buffers := rfl
@[simp] theorem setMem_ports (s : State) (m : Memory) : (s.setMem m).ports = s.ports := rfl
@[simp] theorem setMem_grant (s : State) (m : Memory) : (s.setMem m).grant = s.grant := rfl
@[simp] theorem setMem_transcript (s : State) (m : Memory) : (s.setMem m).transcript = s.transcript := rfl
@[simp] theorem setMem_returned (s : State) (m : Memory) : (s.setMem m).returned = s.returned := rfl
@[simp] theorem setMem_env (s : State) (m : Memory) : (s.setMem m).env = s.env := rfl
@[simp] theorem setMem_draws (s : State) (m : Memory) : (s.setMem m).draws = s.draws := rfl

/-! ## setBridge -/

@[simp] theorem setBridge_sel (s : State) (b : Bool) (b' : BState) : (s.setBridge b b').sel = b := rfl
@[simp] theorem setBridge_bstate (s : State) (b : Bool) (b' : BState) : (s.setBridge b b').bstate = b' := rfl
@[simp] theorem setBridge_settleT0 (s : State) (b : Bool) (b' : BState) : (s.setBridge b b').settleT0 = s.settleT0 := rfl
@[simp] theorem setBridge_status (s : State) (b : Bool) (b' : BState) : (s.setBridge b b').status = s.status := rfl
@[simp] theorem setBridge_result (s : State) (b : Bool) (b' : BState) : (s.setBridge b b').result = s.result := rfl
@[simp] theorem setBridge_distance (s : State) (b : Bool) (b' : BState) : (s.setBridge b b').distance = s.distance := rfl
@[simp] theorem setBridge_mode (s : State) (b : Bool) (b' : BState) : (s.setBridge b b').mode = s.mode := rfl
@[simp] theorem setBridge_lastReadMs (s : State) (b : Bool) (b' : BState) : (s.setBridge b b').lastReadMs = s.lastReadMs := rfl
@[simp] theorem setBridge_lastSuccessMs (s : State) (b : Bool) (b' : BState) : (s.setBridge b b').lastSuccessMs = s.lastSuccessMs := rfl
@[simp] theorem setBridge_modeLine (s : State) (b : Bool) (b' : BState) : (s.setBridge b b').modeLine = s.modeLine := rfl
@[simp] theorem setBridge_session (s : State) (b : Bool) (b' : BState) : (s.setBridge b b').session = s.session := rfl
@[simp] theorem setBridge_viewChan (s : State) (b : Bool) (b' : BState) : (s.setBridge b b').viewChan = s.viewChan := rfl
@[simp] theorem setBridge_sessView (s : State) (b : Bool) (b' : BState) : (s.setBridge b b').sessView = s.sessView := rfl
@[simp] theorem setBridge_clock (s : State) (b : Bool) (b' : BState) : (s.setBridge b b').clock = s.clock := rfl
@[simp] theorem setBridge_periph (s : State) (b : Bool) (b' : BState) : (s.setBridge b b').periph = s.periph := rfl
@[simp] theorem setBridge_mem (s : State) (b : Bool) (b' : BState) : (s.setBridge b b').mem = s.mem := rfl
@[simp] theorem setBridge_buffers (s : State) (b : Bool) (b' : BState) : (s.setBridge b b').buffers = s.buffers := rfl
@[simp] theorem setBridge_ports (s : State) (b : Bool) (b' : BState) : (s.setBridge b b').ports = s.ports := rfl
@[simp] theorem setBridge_grant (s : State) (b : Bool) (b' : BState) : (s.setBridge b b').grant = s.grant := rfl
@[simp] theorem setBridge_transcript (s : State) (b : Bool) (b' : BState) : (s.setBridge b b').transcript = s.transcript := rfl
@[simp] theorem setBridge_returned (s : State) (b : Bool) (b' : BState) : (s.setBridge b b').returned = s.returned := rfl
@[simp] theorem setBridge_env (s : State) (b : Bool) (b' : BState) : (s.setBridge b b').env = s.env := rfl
@[simp] theorem setBridge_draws (s : State) (b : Bool) (b' : BState) : (s.setBridge b b').draws = s.draws := rfl

/-! ## setSettle -/

@[simp] theorem setSettle_sel (s : State) (t : Clock) : (s.setSettle t).sel = s.sel := rfl
@[simp] theorem setSettle_bstate (s : State) (t : Clock) : (s.setSettle t).bstate = s.bstate := rfl
@[simp] theorem setSettle_settleT0 (s : State) (t : Clock) : (s.setSettle t).settleT0 = t := rfl
@[simp] theorem setSettle_status (s : State) (t : Clock) : (s.setSettle t).status = s.status := rfl
@[simp] theorem setSettle_result (s : State) (t : Clock) : (s.setSettle t).result = s.result := rfl
@[simp] theorem setSettle_distance (s : State) (t : Clock) : (s.setSettle t).distance = s.distance := rfl
@[simp] theorem setSettle_mode (s : State) (t : Clock) : (s.setSettle t).mode = s.mode := rfl
@[simp] theorem setSettle_lastReadMs (s : State) (t : Clock) : (s.setSettle t).lastReadMs = s.lastReadMs := rfl
@[simp] theorem setSettle_lastSuccessMs (s : State) (t : Clock) : (s.setSettle t).lastSuccessMs = s.lastSuccessMs := rfl
@[simp] theorem setSettle_modeLine (s : State) (t : Clock) : (s.setSettle t).modeLine = s.modeLine := rfl
@[simp] theorem setSettle_session (s : State) (t : Clock) : (s.setSettle t).session = s.session := rfl
@[simp] theorem setSettle_viewChan (s : State) (t : Clock) : (s.setSettle t).viewChan = s.viewChan := rfl
@[simp] theorem setSettle_sessView (s : State) (t : Clock) : (s.setSettle t).sessView = s.sessView := rfl
@[simp] theorem setSettle_clock (s : State) (t : Clock) : (s.setSettle t).clock = s.clock := rfl
@[simp] theorem setSettle_periph (s : State) (t : Clock) : (s.setSettle t).periph = s.periph := rfl
@[simp] theorem setSettle_mem (s : State) (t : Clock) : (s.setSettle t).mem = s.mem := rfl
@[simp] theorem setSettle_buffers (s : State) (t : Clock) : (s.setSettle t).buffers = s.buffers := rfl
@[simp] theorem setSettle_ports (s : State) (t : Clock) : (s.setSettle t).ports = s.ports := rfl
@[simp] theorem setSettle_grant (s : State) (t : Clock) : (s.setSettle t).grant = s.grant := rfl
@[simp] theorem setSettle_transcript (s : State) (t : Clock) : (s.setSettle t).transcript = s.transcript := rfl
@[simp] theorem setSettle_returned (s : State) (t : Clock) : (s.setSettle t).returned = s.returned := rfl
@[simp] theorem setSettle_env (s : State) (t : Clock) : (s.setSettle t).env = s.env := rfl
@[simp] theorem setSettle_draws (s : State) (t : Clock) : (s.setSettle t).draws = s.draws := rfl

/-! ## setSession -/

@[simp] theorem setSession_sel (s : State) (x : Session) : (s.setSession x).sel = s.sel := rfl
@[simp] theorem setSession_bstate (s : State) (x : Session) : (s.setSession x).bstate = s.bstate := rfl
@[simp] theorem setSession_settleT0 (s : State) (x : Session) : (s.setSession x).settleT0 = s.settleT0 := rfl
@[simp] theorem setSession_status (s : State) (x : Session) : (s.setSession x).status = s.status := rfl
@[simp] theorem setSession_result (s : State) (x : Session) : (s.setSession x).result = s.result := rfl
@[simp] theorem setSession_distance (s : State) (x : Session) : (s.setSession x).distance = s.distance := rfl
@[simp] theorem setSession_mode (s : State) (x : Session) : (s.setSession x).mode = s.mode := rfl
@[simp] theorem setSession_lastReadMs (s : State) (x : Session) : (s.setSession x).lastReadMs = s.lastReadMs := rfl
@[simp] theorem setSession_lastSuccessMs (s : State) (x : Session) : (s.setSession x).lastSuccessMs = s.lastSuccessMs := rfl
@[simp] theorem setSession_modeLine (s : State) (x : Session) : (s.setSession x).modeLine = s.modeLine := rfl
@[simp] theorem setSession_session (s : State) (x : Session) : (s.setSession x).session = x := rfl
@[simp] theorem setSession_viewChan (s : State) (x : Session) : (s.setSession x).viewChan = s.viewChan := rfl
@[simp] theorem setSession_sessView (s : State) (x : Session) : (s.setSession x).sessView = s.sessView := rfl
@[simp] theorem setSession_clock (s : State) (x : Session) : (s.setSession x).clock = s.clock := rfl
@[simp] theorem setSession_periph (s : State) (x : Session) : (s.setSession x).periph = s.periph := rfl
@[simp] theorem setSession_mem (s : State) (x : Session) : (s.setSession x).mem = s.mem := rfl
@[simp] theorem setSession_buffers (s : State) (x : Session) : (s.setSession x).buffers = s.buffers := rfl
@[simp] theorem setSession_ports (s : State) (x : Session) : (s.setSession x).ports = s.ports := rfl
@[simp] theorem setSession_grant (s : State) (x : Session) : (s.setSession x).grant = s.grant := rfl
@[simp] theorem setSession_transcript (s : State) (x : Session) : (s.setSession x).transcript = s.transcript := rfl
@[simp] theorem setSession_returned (s : State) (x : Session) : (s.setSession x).returned = s.returned := rfl
@[simp] theorem setSession_env (s : State) (x : Session) : (s.setSession x).env = s.env := rfl
@[simp] theorem setSession_draws (s : State) (x : Session) : (s.setSession x).draws = s.draws := rfl

/-! ## setOutcome -/

@[simp] theorem setOutcome_sel (s : State) (st res : Code) : (s.setOutcome st res).sel = s.sel := rfl
@[simp] theorem setOutcome_bstate (s : State) (st res : Code) : (s.setOutcome st res).bstate = s.bstate := rfl
@[simp] theorem setOutcome_settleT0 (s : State) (st res : Code) : (s.setOutcome st res).settleT0 = s.settleT0 := rfl
@[simp] theorem setOutcome_status (s : State) (st res : Code) : (s.setOutcome st res).status = st := rfl
@[simp] theorem setOutcome_result (s : State) (st res : Code) : (s.setOutcome st res).result = res := rfl
@[simp] theorem setOutcome_distance (s : State) (st res : Code) : (s.setOutcome st res).distance = s.distance := rfl
@[simp] theorem setOutcome_mode (s : State) (st res : Code) : (s.setOutcome st res).mode = s.mode := rfl
@[simp] theorem setOutcome_lastReadMs (s : State) (st res : Code) : (s.setOutcome st res).lastReadMs = s.lastReadMs := rfl
@[simp] theorem setOutcome_lastSuccessMs (s : State) (st res : Code) : (s.setOutcome st res).lastSuccessMs = s.lastSuccessMs := rfl
@[simp] theorem setOutcome_modeLine (s : State) (st res : Code) : (s.setOutcome st res).modeLine = s.modeLine := rfl
@[simp] theorem setOutcome_session (s : State) (st res : Code) : (s.setOutcome st res).session = s.session := rfl
@[simp] theorem setOutcome_viewChan (s : State) (st res : Code) : (s.setOutcome st res).viewChan = s.viewChan := rfl
@[simp] theorem setOutcome_sessView (s : State) (st res : Code) : (s.setOutcome st res).sessView = s.sessView := rfl
@[simp] theorem setOutcome_clock (s : State) (st res : Code) : (s.setOutcome st res).clock = s.clock := rfl
@[simp] theorem setOutcome_periph (s : State) (st res : Code) : (s.setOutcome st res).periph = s.periph := rfl
@[simp] theorem setOutcome_mem (s : State) (st res : Code) : (s.setOutcome st res).mem = s.mem := rfl
@[simp] theorem setOutcome_buffers (s : State) (st res : Code) : (s.setOutcome st res).buffers = s.buffers := rfl
@[simp] theorem setOutcome_ports (s : State) (st res : Code) : (s.setOutcome st res).ports = s.ports := rfl
@[simp] theorem setOutcome_grant (s : State) (st res : Code) : (s.setOutcome st res).grant = s.grant := rfl
@[simp] theorem setOutcome_transcript (s : State) (st res : Code) : (s.setOutcome st res).transcript = s.transcript := rfl
@[simp] theorem setOutcome_returned (s : State) (st res : Code) : (s.setOutcome st res).returned = s.returned := rfl
@[simp] theorem setOutcome_env (s : State) (st res : Code) : (s.setOutcome st res).env = s.env := rfl
@[simp] theorem setOutcome_draws (s : State) (st res : Code) : (s.setOutcome st res).draws = s.draws := rfl

/-! ## setLastRead -/

@[simp] theorem setLastRead_sel (s : State) (t : Clock) : (s.setLastRead t).sel = s.sel := rfl
@[simp] theorem setLastRead_bstate (s : State) (t : Clock) : (s.setLastRead t).bstate = s.bstate := rfl
@[simp] theorem setLastRead_settleT0 (s : State) (t : Clock) : (s.setLastRead t).settleT0 = s.settleT0 := rfl
@[simp] theorem setLastRead_status (s : State) (t : Clock) : (s.setLastRead t).status = s.status := rfl
@[simp] theorem setLastRead_result (s : State) (t : Clock) : (s.setLastRead t).result = s.result := rfl
@[simp] theorem setLastRead_distance (s : State) (t : Clock) : (s.setLastRead t).distance = s.distance := rfl
@[simp] theorem setLastRead_mode (s : State) (t : Clock) : (s.setLastRead t).mode = s.mode := rfl
@[simp] theorem setLastRead_lastReadMs (s : State) (t : Clock) : (s.setLastRead t).lastReadMs = t := rfl
@[simp] theorem setLastRead_lastSuccessMs (s : State) (t : Clock) : (s.setLastRead t).lastSuccessMs = s.lastSuccessMs := rfl
@[simp] theorem setLastRead_modeLine (s : State) (t : Clock) : (s.setLastRead t).modeLine = s.modeLine := rfl
@[simp] theorem setLastRead_session (s : State) (t : Clock) : (s.setLastRead t).session = s.session := rfl
@[simp] theorem setLastRead_viewChan (s : State) (t : Clock) : (s.setLastRead t).viewChan = s.viewChan := rfl
@[simp] theorem setLastRead_sessView (s : State) (t : Clock) : (s.setLastRead t).sessView = s.sessView := rfl
@[simp] theorem setLastRead_clock (s : State) (t : Clock) : (s.setLastRead t).clock = s.clock := rfl
@[simp] theorem setLastRead_periph (s : State) (t : Clock) : (s.setLastRead t).periph = s.periph := rfl
@[simp] theorem setLastRead_mem (s : State) (t : Clock) : (s.setLastRead t).mem = s.mem := rfl
@[simp] theorem setLastRead_buffers (s : State) (t : Clock) : (s.setLastRead t).buffers = s.buffers := rfl
@[simp] theorem setLastRead_ports (s : State) (t : Clock) : (s.setLastRead t).ports = s.ports := rfl
@[simp] theorem setLastRead_grant (s : State) (t : Clock) : (s.setLastRead t).grant = s.grant := rfl
@[simp] theorem setLastRead_transcript (s : State) (t : Clock) : (s.setLastRead t).transcript = s.transcript := rfl
@[simp] theorem setLastRead_returned (s : State) (t : Clock) : (s.setLastRead t).returned = s.returned := rfl
@[simp] theorem setLastRead_env (s : State) (t : Clock) : (s.setLastRead t).env = s.env := rfl
@[simp] theorem setLastRead_draws (s : State) (t : Clock) : (s.setLastRead t).draws = s.draws := rfl

/-! ## setSuccess -/

@[simp] theorem setSuccess_sel (s : State) (d : Half) (t : Clock) : (s.setSuccess d t).sel = s.sel := rfl
@[simp] theorem setSuccess_bstate (s : State) (d : Half) (t : Clock) : (s.setSuccess d t).bstate = s.bstate := rfl
@[simp] theorem setSuccess_settleT0 (s : State) (d : Half) (t : Clock) : (s.setSuccess d t).settleT0 = s.settleT0 := rfl
@[simp] theorem setSuccess_status (s : State) (d : Half) (t : Clock) : (s.setSuccess d t).status = s.status := rfl
@[simp] theorem setSuccess_result (s : State) (d : Half) (t : Clock) : (s.setSuccess d t).result = s.result := rfl
@[simp] theorem setSuccess_distance (s : State) (d : Half) (t : Clock) : (s.setSuccess d t).distance = d := rfl
@[simp] theorem setSuccess_mode (s : State) (d : Half) (t : Clock) : (s.setSuccess d t).mode = s.mode := rfl
@[simp] theorem setSuccess_lastReadMs (s : State) (d : Half) (t : Clock) : (s.setSuccess d t).lastReadMs = s.lastReadMs := rfl
@[simp] theorem setSuccess_lastSuccessMs (s : State) (d : Half) (t : Clock) : (s.setSuccess d t).lastSuccessMs = t := rfl
@[simp] theorem setSuccess_modeLine (s : State) (d : Half) (t : Clock) : (s.setSuccess d t).modeLine = s.modeLine := rfl
@[simp] theorem setSuccess_session (s : State) (d : Half) (t : Clock) : (s.setSuccess d t).session = s.session := rfl
@[simp] theorem setSuccess_viewChan (s : State) (d : Half) (t : Clock) : (s.setSuccess d t).viewChan = s.viewChan := rfl
@[simp] theorem setSuccess_sessView (s : State) (d : Half) (t : Clock) : (s.setSuccess d t).sessView = s.sessView := rfl
@[simp] theorem setSuccess_clock (s : State) (d : Half) (t : Clock) : (s.setSuccess d t).clock = s.clock := rfl
@[simp] theorem setSuccess_periph (s : State) (d : Half) (t : Clock) : (s.setSuccess d t).periph = s.periph := rfl
@[simp] theorem setSuccess_mem (s : State) (d : Half) (t : Clock) : (s.setSuccess d t).mem = s.mem := rfl
@[simp] theorem setSuccess_buffers (s : State) (d : Half) (t : Clock) : (s.setSuccess d t).buffers = s.buffers := rfl
@[simp] theorem setSuccess_ports (s : State) (d : Half) (t : Clock) : (s.setSuccess d t).ports = s.ports := rfl
@[simp] theorem setSuccess_grant (s : State) (d : Half) (t : Clock) : (s.setSuccess d t).grant = s.grant := rfl
@[simp] theorem setSuccess_transcript (s : State) (d : Half) (t : Clock) : (s.setSuccess d t).transcript = s.transcript := rfl
@[simp] theorem setSuccess_returned (s : State) (d : Half) (t : Clock) : (s.setSuccess d t).returned = s.returned := rfl
@[simp] theorem setSuccess_env (s : State) (d : Half) (t : Clock) : (s.setSuccess d t).env = s.env := rfl
@[simp] theorem setSuccess_draws (s : State) (d : Half) (t : Clock) : (s.setSuccess d t).draws = s.draws := rfl

/-! ## setMode -/

@[simp] theorem setMode_sel (s : State) (b : Bool) : (s.setMode b).sel = s.sel := rfl
@[simp] theorem setMode_bstate (s : State) (b : Bool) : (s.setMode b).bstate = s.bstate := rfl
@[simp] theorem setMode_settleT0 (s : State) (b : Bool) : (s.setMode b).settleT0 = s.settleT0 := rfl
@[simp] theorem setMode_status (s : State) (b : Bool) : (s.setMode b).status = s.status := rfl
@[simp] theorem setMode_result (s : State) (b : Bool) : (s.setMode b).result = s.result := rfl
@[simp] theorem setMode_distance (s : State) (b : Bool) : (s.setMode b).distance = s.distance := rfl
@[simp] theorem setMode_mode (s : State) (b : Bool) : (s.setMode b).mode = b := rfl
@[simp] theorem setMode_lastReadMs (s : State) (b : Bool) : (s.setMode b).lastReadMs = s.lastReadMs := rfl
@[simp] theorem setMode_lastSuccessMs (s : State) (b : Bool) : (s.setMode b).lastSuccessMs = s.lastSuccessMs := rfl
@[simp] theorem setMode_modeLine (s : State) (b : Bool) : (s.setMode b).modeLine = s.modeLine := rfl
@[simp] theorem setMode_session (s : State) (b : Bool) : (s.setMode b).session = s.session := rfl
@[simp] theorem setMode_viewChan (s : State) (b : Bool) : (s.setMode b).viewChan = s.viewChan := rfl
@[simp] theorem setMode_sessView (s : State) (b : Bool) : (s.setMode b).sessView = s.sessView := rfl
@[simp] theorem setMode_clock (s : State) (b : Bool) : (s.setMode b).clock = s.clock := rfl
@[simp] theorem setMode_periph (s : State) (b : Bool) : (s.setMode b).periph = s.periph := rfl
@[simp] theorem setMode_mem (s : State) (b : Bool) : (s.setMode b).mem = s.mem := rfl
@[simp] theorem setMode_buffers (s : State) (b : Bool) : (s.setMode b).buffers = s.buffers := rfl
@[simp] theorem setMode_ports (s : State) (b : Bool) : (s.setMode b).ports = s.ports := rfl
@[simp] theorem setMode_grant (s : State) (b : Bool) : (s.setMode b).grant = s.grant := rfl
@[simp] theorem setMode_transcript (s : State) (b : Bool) : (s.setMode b).transcript = s.transcript := rfl
@[simp] theorem setMode_returned (s : State) (b : Bool) : (s.setMode b).returned = s.returned := rfl
@[simp] theorem setMode_env (s : State) (b : Bool) : (s.setMode b).env = s.env := rfl
@[simp] theorem setMode_draws (s : State) (b : Bool) : (s.setMode b).draws = s.draws := rfl

end Sys2Proof.Machine.State
end

