-- ==== Sys2Proof/Laws/Memory.lean ====
section
/-! SUPPORT. Host memory: a read after a write, and that every operation keeps the canonical form. -/

namespace Sys2Proof.Machine.Memory

theorem wf_cons (cell : Host.Cell) (rest : Memory) :
    wf (cell :: rest) = true ↔
      cell.2 ≠ unlisted ∧ (∀ later ∈ rest, cell.1 < later.1) ∧ wf rest = true := by
  simp [wf, and_assoc]

/-! ## erase -/

theorem mem_erase {m : Memory} {a : Nat} {c : Host.Cell} (h : c ∈ erase m a) : c ∈ m ∧ c.1 ≠ a := by
  induction m with
  | nil => simp [erase] at h
  | cons cell rest ih =>
    unfold erase at h
    split at h
    · exact ⟨List.mem_cons_of_mem _ (ih h).1, (ih h).2⟩
    · rcases List.mem_cons.mp h with rfl | h
      · exact ⟨List.mem_cons_self, by assumption⟩
      · exact ⟨List.mem_cons_of_mem _ (ih h).1, (ih h).2⟩

theorem erase_wf {m : Memory} (a : Nat) (h : wf m = true) : wf (erase m a) = true := by
  induction m with
  | nil => rfl
  | cons cell rest ih =>
    obtain ⟨hv, hlt, hrest⟩ := (wf_cons _ _).mp h
    unfold erase
    split
    · exact ih hrest
    · exact (wf_cons _ _).mpr ⟨hv, fun later hl => hlt later (mem_erase hl).1, ih hrest⟩

theorem read_erase_same (m : Memory) (a : Nat) : read (erase m a) a = unlisted := by
  induction m with
  | nil => rfl
  | cons cell rest ih =>
    unfold erase
    split
    · exact ih
    · simp [read, *]

theorem read_erase_other (m : Memory) {a b : Nat} (h : b ≠ a) : read (erase m a) b = read m b := by
  induction m with
  | nil => rfl
  | cons cell rest ih =>
    unfold erase
    split
    · rename_i hc
      simp [read, hc, Ne.symm h, ih]
    · simp only [read, ih]

/-! ## insert -/

theorem mem_insert {m : Memory} {a : Nat} {v : Byte} {c : Host.Cell} (h : c ∈ insert m a v) :
    c = (a, v) ∨ c ∈ m := by
  induction m with
  | nil => simpa [insert] using h
  | cons cell rest ih =>
    unfold insert at h
    split at h
    · simpa using h
    · rcases List.mem_cons.mp h with rfl | h
      · exact .inr List.mem_cons_self
      · exact (ih h).imp id (List.mem_cons_of_mem _)

theorem insert_wf {m : Memory} {a : Nat} {v : Byte} (h : wf m = true) (hv : v ≠ unlisted)
    (ha : ∀ c ∈ m, c.1 ≠ a) : wf (insert m a v) = true := by
  induction m with
  | nil => simp [insert, wf, hv]
  | cons cell rest ih =>
    obtain ⟨hc, hlt, hrest⟩ := (wf_cons _ _).mp h
    unfold insert
    split
    · rename_i hlow
      refine (wf_cons _ _).mpr ⟨hv, fun later hl => ?_, h⟩
      rcases List.mem_cons.mp hl with rfl | hl
      · exact hlow
      · exact Nat.lt_trans hlow (hlt later hl)
    · rename_i hhigh
      have hne := ha cell List.mem_cons_self
      refine (wf_cons _ _).mpr ⟨hc, fun later hl => ?_, ih hrest fun c hm => ha c (List.mem_cons_of_mem _ hm)⟩
      rcases mem_insert hl with rfl | hl
      · show cell.1 < a
        omega
      · exact hlt later hl

theorem read_insert_same (m : Memory) (a : Nat) (v : Byte) (ha : ∀ c ∈ m, c.1 ≠ a) :
    read (insert m a v) a = v := by
  induction m with
  | nil => simp [insert, read]
  | cons cell rest ih =>
    unfold insert
    split
    · simp [read]
    · simp [read, ha cell List.mem_cons_self, ih fun c hm => ha c (List.mem_cons_of_mem _ hm)]

theorem read_insert_other (m : Memory) {a b : Nat} (v : Byte) (h : b ≠ a) : read (insert m a v) b = read m b := by
  induction m with
  | nil => simp [insert, read, Ne.symm h]
  | cons cell rest ih =>
    unfold insert
    split
    · simp [read, Ne.symm h]
    · simp [read, ih]

/-! ## write -/

theorem write_wf {m : Memory} (a : Nat) (v : Byte) (h : wf m = true) : wf (write m a v) = true := by
  unfold write
  split
  · exact erase_wf a h
  · exact insert_wf (erase_wf a h) (by assumption) fun _ hc => (mem_erase hc).2

theorem read_write_same (m : Memory) (a : Nat) (v : Byte) : read (write m a v) a = v := by
  unfold write
  split
  · rename_i hv
    rw [read_erase_same, hv]
  · exact read_insert_same _ _ _ fun _ hc => (mem_erase hc).2

theorem read_write_other (m : Memory) {a b : Nat} (v : Byte) (h : b ≠ a) : read (write m a v) b = read m b := by
  unfold write
  split
  · exact read_erase_other m h
  · rw [read_insert_other _ _ h, read_erase_other _ h]

end Sys2Proof.Machine.Memory

namespace Sys2Proof.Machine

/-! ## Host buffers -/

theorem writeBuffer_wf {m : Memory} (ref : Ref) (k : Nat) (bs : List Byte) (h : Memory.wf m = true) :
    Memory.wf (writeBuffer m ref k bs) = true := by
  induction bs generalizing m k with
  | nil => exact h
  | cons v rest ih => exact ih (k + 1) (Memory.write_wf _ _ h)

/-- Bytes below the first index written, and all bytes outside the buffer's part written, read as before. -/
theorem read_writeBuffer_other (m : Memory) (ref : Ref) (k : Nat) (bs : List Byte) (x : Nat)
    (h : ∀ j, j < bs.length → x ≠ bufferAddr ref (k + j)) : Memory.read (writeBuffer m ref k bs) x = Memory.read m x := by
  induction bs generalizing m k with
  | nil => rfl
  | cons v rest ih =>
    rw [writeBuffer, ih]
    · exact Memory.read_write_other m v (h 0 (by simp))
    · intro j hj
      have := h (j + 1) (by simpa using hj)
      rwa [show k + 1 + j = k + (j + 1) by omega]

/-- The bytes written read back. -/
theorem read_writeBuffer_same (m : Memory) (ref : Ref) (k : Nat) (bs : List Byte) (j : Nat) (h : j < bs.length) :
    Memory.read (writeBuffer m ref k bs) (bufferAddr ref (k + j)) = bs[j] := by
  induction bs generalizing m k j with
  | nil => simp at h
  | cons v rest ih =>
    cases j with
    | zero =>
      rw [writeBuffer, read_writeBuffer_other]
      · exact Memory.read_write_same m _ v
      · intro j _
        simp only [bufferAddr]
        omega
    | succ j =>
      rw [writeBuffer, show k + (j + 1) = k + 1 + j by omega, ih (m.write _ v) (k + 1) j (by simpa using h)]
      simp

@[simp] theorem readBuffer_length (m : Memory) (ref : Ref) (k n : Nat) : (readBuffer m ref k n).length = n := by
  induction n generalizing k with
  | zero => rfl
  | succ n ih => simp [readBuffer, ih]

end Sys2Proof.Machine
end

