-- ==== Sys2Proof/Laws/Ops.lean ====
section
/-! SUPPORT. One lemma for what each shared operation does: the bus primitives, the loops over exchanges, the phases of a
bracket, the clock and the settling wait. -/

namespace Sys2Proof.Machine

/-! ## Command bytes -/

theorem decodeCmd_qrd : ∀ cc : Chan, decodeCmd (cmdByte 0x1#4 cc) = .qrd cc := by decide
theorem decodeCmd_rx : ∀ cc : Chan, decodeCmd (cmdByte 0x2#4 cc) = .rx cc := by decide
theorem decodeCmd_qtd : ∀ cc : Chan, decodeCmd (cmdByte 0x3#4 cc) = .qtd cc := by decide
theorem decodeCmd_tx : ∀ cc : Chan, decodeCmd (cmdByte 0x4#4 cc) = .tx cc := by decide
theorem decodeCmd_baud : ∀ cc : Chan, decodeCmd (cmdByte 0x8#4 cc) = .baud cc := by decide

/-- A channel operand of 0..3 names the channel of its two low bits. -/
theorem channel?_of_lt {c : Byte} (h : c.toNat < 4) : channel? c = some (c.extractLsb' 0 2) := by
  simp [channel?, Config.nChan, h]

/-- A channel operand of 4 or more names none (R120). -/
theorem channel?_of_ge {c : Byte} (h : 4 ≤ c.toNat) : channel? c = none := by
  simp [channel?, Config.nChan, Nat.not_lt.mpr h]

theorem channel?_eq_some {c : Byte} {cc : Chan} (h : channel? c = some cc) :
    c.toNat < 4 ∧ cc = c.extractLsb' 0 2 := by
  unfold channel? at h
  split at h
  · exact ⟨by assumption, (Option.some.inj h).symm⟩
  · cases h

/-- The command byte of a channel operand of 0..3 is the opcode's nibble with the operand in its low bits (R91, R92). -/
theorem cmdByte_of_channel? {c : Byte} {cc : Chan} (h : channel? c = some cc) (opc : BitVec 4) :
    cmdByte opc cc = (opc.zeroExtend 8 <<< 4) ||| c := by
  obtain ⟨hlt, rfl⟩ := channel?_eq_some h
  have : c.zeroExtend 8 = c := by simp
  have hc : (c.extractLsb' 0 2).zeroExtend 8 = c := by
    apply BitVec.eq_of_toNat_eq
    simp
    omega
  rw [cmdByte, hc]

/-! ## The channels of the peripheral -/

theorem chan_cases : ∀ cc : Chan, cc = 0 ∨ cc = 1 ∨ cc = 2 ∨ cc = 3 := by decide

theorem Peripheral.get_set_same (p : Peripheral) (cc : Chan) (ch : Channel) : (p.set cc ch).get cc = ch := by
  unfold Peripheral.get Peripheral.set
  split <;> [rfl; skip]
  split <;> [rfl; skip]
  split <;> rfl

theorem Peripheral.get_set_other (p : Peripheral) {cc x : Chan} (ch : Channel) (h : x ≠ cc) :
    (p.set cc ch).get x = p.get x := by
  unfold Peripheral.get Peripheral.set
  rcases chan_cases cc with rfl | rfl | rfl | rfl <;> rcases chan_cases x with rfl | rfl | rfl | rfl <;>
    first | exact absurd rfl h | rfl

@[simp] theorem Peripheral.phase_set (p : Peripheral) (cc : Chan) (ch : Channel) : (p.set cc ch).phase = p.phase := by
  unfold Peripheral.set
  split <;> [rfl; skip]
  split <;> [rfl; skip]
  split <;> rfl

@[simp] theorem Peripheral.qcap_set (p : Peripheral) (cc : Chan) (ch : Channel) : (p.set cc ch).qcap = p.qcap := by
  unfold Peripheral.set
  split <;> [rfl; skip]
  split <;> [rfl; skip]
  split <;> rfl

/-- A change of the phase is no change of a channel. -/
@[simp] theorem Peripheral.get_phase (p : Peripheral) (ph : Phase) (x : Chan) :
    ({ p with phase := ph } : Peripheral).get x = p.get x := rfl

theorem Peripheral.lineActivity_phase (p : Peripheral) (env : Environment) (d : Nat) :
    (p.lineActivity env d).phase = p.phase ∧ (p.lineActivity env d).qcap = p.qcap := by
  cases env <;> exact ⟨rfl, rfl⟩

/-- At the reference peripheral nothing happens between two brackets (R264). -/
@[simp] theorem Peripheral.lineActivity_reference (p : Peripheral) (d : Nat) : p.lineActivity .reference d = p := rfl

/-! ## The bits of a transcript (R62) -/

@[simp] theorem sentBits_append (es fs : List Event) : sentBits (es ++ fs) = sentBits es ++ sentBits fs := by
  induction es with
  | nil => rfl
  | cons e es ih => cases e <;> simp [sentBits, ih]

@[simp] theorem receivedBits_append (es fs : List Event) :
    receivedBits (es ++ fs) = receivedBits es ++ receivedBits fs := by
  induction es with
  | nil => rfl
  | cons e es ih => cases e <;> simp [receivedBits, ih]

/-! ## One exchange, by the phase it falls in -/

@[simp] theorem xfer_draws (m : Byte) (s : State) : (xfer m s).2.draws = s.draws + 1 := rfl
@[simp] theorem xfer_periph (m : Byte) (s : State) : (xfer m s).2.periph = s.periph.absorb s.env s.draws m := rfl
@[simp] theorem xfer_transcript (m : Byte) (s : State) :
    (xfer m s).2.transcript = s.transcript ++ [.xfer m (xfer m s).1] := rfl
@[simp] theorem xfer_env (m : Byte) (s : State) : (xfer m s).2.env = s.env := rfl
@[simp] theorem selBus_env (s : State) : (selBus s).env = s.env := rfl
@[simp] theorem selBus_transcript (s : State) : (selBus s).transcript = s.transcript ++ [.sel] := rfl
@[simp] theorem selBus_periph (s : State) : (selBus s).periph = s.periph.selected s.env s.draws := rfl
@[simp] theorem deselBus_periph (s : State) : (deselBus s).periph = s.periph.deselected := rfl
@[simp] theorem deselBus_transcript (s : State) : (deselBus s).transcript = s.transcript ++ [.desel] := rfl
@[simp] theorem deselBus_env (s : State) : (deselBus s).env = s.env := rfl

/-- Outside the payload of a receive or transmit and the baud code, an exchange moves the phase only. -/
theorem Peripheral.absorb_idle (p : Peripheral) (env : Environment) (d : Nat) (m : Byte)
    (hr : ∀ cc n, p.phase ≠ .receive cc n) (ht : ∀ cc n, p.phase ≠ .transmit cc n) (hb : ∀ cc, p.phase ≠ .baud cc) :
    p.absorb env d m = { p with phase := p.phase.next m } := by
  unfold Peripheral.absorb Peripheral.effect
  split
  · exact absurd ‹_› (hr _ _)
  · exact absurd ‹_› (ht _ _)
  · exact absurd ‹_› (hb _)
  · rfl

/-- An exchange that answers a received byte takes it from the head of the queue (R126, R137). -/
theorem Peripheral.absorb_receive {p : Peripheral} {cc : Chan} {n : Nat} (h : p.phase = .receive cc n)
    (env : Environment) (d : Nat) (m : Byte) :
    p.absorb env d m =
      { p.set cc { p.get cc with rq := (p.get cc).rq.tail } with phase := Phase.receiving cc (n - 1) } := by
  simp [Peripheral.absorb, Peripheral.effect, h, Phase.next]

/-- An exchange that carries a payload byte appends it to the transmit queue (R127). -/
theorem Peripheral.absorb_transmit {p : Peripheral} {cc : Chan} {n : Nat} (h : p.phase = .transmit cc n)
    (env : Environment) (d : Nat) (m : Byte) :
    p.absorb env d m =
      { p.set cc { p.get cc with tq := enqueue env d p.qcap (p.get cc).tq m } with
        phase := Phase.transmitting cc (n - 1) } := by
  simp [Peripheral.absorb, Peripheral.effect, h, Phase.next]

/-- The exchange that carries the baud code writes BAUD (R128). -/
theorem Peripheral.absorb_baud {p : Peripheral} {cc : Chan} (h : p.phase = .baud cc)
    (env : Environment) (d : Nat) (m : Byte) :
    p.absorb env d m =
      { p.set cc { p.get cc with baud := setBaudCode (p.get cc).baud m } with phase := .complete true } := by
  simp [Peripheral.absorb, Peripheral.effect, h, Phase.next]

/-! ## Frames of the bus primitives -/

/-- The changes of exchanges inside a bracket: the peripheral, the free-value counter and the transcript. -/
def BusOnly (s t : State) : Prop :=
  t = { s with periph := t.periph, draws := t.draws, transcript := t.transcript }

theorem BusOnly.refl (s : State) : BusOnly s s := rfl

theorem BusOnly.trans {s t u : State} (h : BusOnly s t) (k : BusOnly t u) : BusOnly s u := by
  unfold BusOnly at *
  rw [k, h]

theorem xfer_busOnly (m : Byte) (s : State) : BusOnly s (xfer m s).2 := rfl

theorem sendAll_busOnly (ms : List Byte) (s : State) : BusOnly s (sendAll ms s) := by
  induction ms generalizing s with
  | nil => exact .refl s
  | cons m rest ih => exact (xfer_busOnly m s).trans (ih _)

theorem receiveAll_busOnly (n : Nat) (s : State) : BusOnly s (receiveAll n s).2 := by
  induction n generalizing s with
  | zero => exact .refl s
  | succ n ih => exact (xfer_busOnly _ s).trans (ih _)

/-- The changes of a whole bracket. -/
def Bracketed (s t : State) : Prop :=
  t = { s with sel := false, bstate := .idle, periph := t.periph, draws := t.draws, transcript := t.transcript }

/-- A bracket whose exchanges are `u` changes no more than `Bracketed` says (R121). -/
theorem bracket_bracketed {s u : State} (h : BusOnly (selBus s) u) : Bracketed s (deselBus u) := by
  unfold BusOnly at h
  unfold Bracketed
  rw [h]
  rfl

theorem Bracketed.trans {s t u : State} (h : Bracketed s t) (k : Bracketed t u) : Bracketed s u := by
  unfold Bracketed at *
  rw [k, h]

theorem Bracketed.frame {s t : State} (h : Bracketed s t) (r : Result) : BusFrame s (t.reply r) := by
  unfold Bracketed at h
  unfold BusFrame
  rw [h]
  rfl

/-- The reply of an operation whose bus activity is one or more brackets (R266). -/
theorem Bracketed.returns {s t : State} (h : Bracketed s t) (r : Result) : Returns s (t.reply r) r := by
  unfold Bracketed at h
  unfold Returns
  rw [h]
  rfl

theorem Bracketed.env {s t : State} (h : Bracketed s t) : t.env = s.env := by
  unfold Bracketed at h
  rw [h]

theorem Bracketed.mem {s t : State} (h : Bracketed s t) : t.mem = s.mem := by
  unfold Bracketed at h
  rw [h]

theorem busFrame_memory {s t : State} (h : BusFrame s t) : SameMemory s t := by
  unfold BusFrame at h
  intro a
  rw [h]

/-! ## What the loops append to the transcript -/

@[simp] theorem sendAll_nil (s : State) : sendAll [] s = s := rfl
@[simp] theorem sendAll_cons (m : Byte) (ms : List Byte) (s : State) :
    sendAll (m :: ms) s = sendAll ms (xfer m s).2 := rfl
@[simp] theorem receiveAll_zero (s : State) : receiveAll 0 s = ([], s) := rfl

/-- One exchange for each byte sent, in order, whatever the peripheral returns (R122). -/
theorem sendAll_emits (ms : List Byte) (s : State) :
    ∃ ss : List Byte, ss.length = ms.length ∧ Emits s (sendAll ms s) (sentWith ms ss) := by
  induction ms generalizing s with
  | nil => exact ⟨[], rfl, by simp [Emits, sentWith]⟩
  | cons m rest ih =>
    obtain ⟨ss, hl, he⟩ := ih (xfer m s).2
    refine ⟨(xfer m s).1 :: ss, by simp [hl], ?_⟩
    unfold Emits at he ⊢
    rw [sendAll_cons, he, xfer_transcript]
    simp [sentWith]

@[simp] theorem receiveAll_length (n : Nat) (s : State) : (receiveAll n s).1.length = n := by
  induction n generalizing s with
  | zero => rfl
  | succ n ih => simp [receiveAll, ih]

/-- One exchange of FILL for each byte received, in order (R122). -/
theorem receiveAll_emits (n : Nat) (s : State) :
    Emits s (receiveAll n s).2 (received (receiveAll n s).1) := by
  induction n generalizing s with
  | zero => simp [Emits, received]
  | succ n ih =>
    have h := ih (xfer Config.fill s).2
    unfold Emits at h ⊢
    simp only [receiveAll, h, xfer_transcript, received, List.map_cons, List.append_assoc, List.singleton_append]

/-! ## What the loops do to the peripheral -/

/-- A receive of `n` bytes answers the oldest bytes of the queue, in order, while it holds any, and removes them
(R126, R137); other channels and the channel's transmit queue and baud code stay. -/
theorem receiveAll_takes (n : Nat) (s : State) (cc : Chan)
    (h : s.periph.phase = Phase.receiving cc n) :
    (receiveAll n s).1.take (s.periph.get cc).rq.length = (s.periph.get cc).rq.take n ∧
      (receiveAll n s).2.periph.get cc = { s.periph.get cc with rq := (s.periph.get cc).rq.drop n } ∧
      (∀ x, x ≠ cc → (receiveAll n s).2.periph.get x = s.periph.get x) ∧
      (receiveAll n s).2.periph.phase = .complete false ∧
      (receiveAll n s).2.periph.qcap = s.periph.qcap := by
  induction n generalizing s with
  | zero => simpa [Phase.receiving] using h
  | succ n ih =>
    have hp : s.periph.phase = .receive cc (n + 1) := by simpa [Phase.receiving] using h
    have ha := Peripheral.absorb_receive hp s.env s.draws Config.fill
    simp only [Nat.add_sub_cancel] at ha
    have hx : (xfer Config.fill s).2.periph.phase = Phase.receiving cc n := by rw [xfer_periph, ha]
    obtain ⟨h1, h2, h3, h4, h5⟩ := ih (xfer Config.fill s).2 hx
    have hg : (xfer Config.fill s).2.periph.get cc = { s.periph.get cc with rq := (s.periph.get cc).rq.tail } := by
      rw [xfer_periph, ha, Peripheral.get_phase, Peripheral.get_set_same]
    rw [hg] at h1 h2
    refine ⟨?_, ?_, fun x hxc => ?_, h4, ?_⟩
    · cases hq : (s.periph.get cc).rq with
      | nil => simp
      | cons b rest =>
        rw [hq] at h1
        have hb : (xfer Config.fill s).1 = b := by simp [xfer, Peripheral.answer, hp, receiveAnswer, hq]
        simp only [receiveAll, hb, List.length_cons, List.take_succ_cons, List.cons.injEq, true_and]
        exact h1
    · simp only [receiveAll, h2, List.drop_tail]
    · simp only [receiveAll, h3 x hxc, xfer_periph, ha, Peripheral.get_phase, Peripheral.get_set_other _ _ hxc]
    · simp only [receiveAll, h5, xfer_periph, ha, Peripheral.qcap_set]

/-- At the reference peripheral a receive of `n` bytes answers 0x00 for each byte beyond the queue (R264). -/
theorem receiveAll_reference (n : Nat) (s : State) (cc : Chan) (he : s.env = .reference)
    (h : s.periph.phase = Phase.receiving cc n) :
    (receiveAll n s).1 = (s.periph.get cc).rq.take n ++ List.replicate (n - (s.periph.get cc).rq.length) 0x00#8 := by
  induction n generalizing s with
  | zero => simp
  | succ n ih =>
    have hp : s.periph.phase = .receive cc (n + 1) := by simpa [Phase.receiving] using h
    have ha := Peripheral.absorb_receive hp s.env s.draws Config.fill
    simp only [Nat.add_sub_cancel] at ha
    have hi := ih (xfer Config.fill s).2 he (by rw [xfer_periph, ha])
    rw [xfer_periph, ha, Peripheral.get_phase, Peripheral.get_set_same] at hi
    cases hq : (s.periph.get cc).rq with
    | nil =>
      have hb : (xfer Config.fill s).1 = 0x00#8 := by
        simp [xfer, Peripheral.answer, hp, receiveAnswer, hq, openByte, he]
      rw [hq] at hi
      simp only [receiveAll, hb, hi]
      simp [List.replicate_succ]
    | cons b rest =>
      have hb : (xfer Config.fill s).1 = b := by simp [xfer, Peripheral.answer, hp, receiveAnswer, hq]
      rw [hq] at hi
      simp only [receiveAll, hb, hi]
      simp

/-- A transmit queue that takes `n` bytes sent from draw `d` on. -/
def TakesAll (env : Environment) (d qcap : Nat) (tq : List Byte) (n : Nat) : Prop :=
  match env with
  | .general => ∀ k, k < n → Config.freeTxOverflow (d + k) = none
  | .reference => tq.length + n ≤ qcap

/-- A queue that takes `n + 1` bytes takes the first, and then the other `n`. -/
theorem TakesAll.succ {env : Environment} {d qcap n : Nat} {tq : List Byte} (m : Byte)
    (h : TakesAll env d qcap tq (n + 1)) :
    enqueue env d qcap tq m = tq ++ [m] ∧ TakesAll env (d + 1) qcap (tq ++ [m]) n := by
  cases env with
  | general =>
    have h0 : Config.freeTxOverflow d = none := h 0 (by omega)
    refine ⟨by rw [enqueue, h0]; rfl, fun k hk => ?_⟩
    have := h (k + 1) (by omega)
    rwa [Nat.add_comm k, ← Nat.add_assoc] at this
  | reference =>
    simp only [TakesAll] at h
    exact ⟨by rw [enqueue, if_pos (by omega)], by simp only [TakesAll, List.length_append, List.length_singleton]; omega⟩

/-- A transmit whose payload the queue takes appends it, in order (R127); other channels and the channel's receive queue
and baud code stay, whether it fits or not. -/
theorem sendAll_appends (ms : List Byte) (s : State) (cc : Chan)
    (h : s.periph.phase = Phase.transmitting cc ms.length) :
    (TakesAll s.env s.draws s.periph.qcap (s.periph.get cc).tq ms.length →
        ((sendAll ms s).periph.get cc).tq = (s.periph.get cc).tq ++ ms) ∧
      ((sendAll ms s).periph.get cc).rq = (s.periph.get cc).rq ∧
      ((sendAll ms s).periph.get cc).baud = (s.periph.get cc).baud ∧
      (∀ x, x ≠ cc → (sendAll ms s).periph.get x = s.periph.get x) ∧
      (sendAll ms s).periph.phase = .complete false ∧
      (sendAll ms s).periph.qcap = s.periph.qcap := by
  induction ms generalizing s with
  | nil => simpa [Phase.transmitting] using h
  | cons m rest ih =>
    have hp : s.periph.phase = .transmit cc (rest.length + 1) := by simpa [Phase.transmitting] using h
    have ha := Peripheral.absorb_transmit hp s.env s.draws m
    simp only [Nat.add_sub_cancel] at ha
    have hx : (xfer m s).2.periph.phase = Phase.transmitting cc rest.length := by rw [xfer_periph, ha]
    obtain ⟨h1, h2, h3, h4, h5, h6⟩ := ih (xfer m s).2 hx
    have hg : (xfer m s).2.periph.get cc =
        { s.periph.get cc with tq := enqueue s.env s.draws s.periph.qcap (s.periph.get cc).tq m } := by
      rw [xfer_periph, ha, Peripheral.get_phase, Peripheral.get_set_same]
    have hq : (xfer m s).2.periph.qcap = s.periph.qcap := by rw [xfer_periph, ha, Peripheral.qcap_set]
    rw [hg] at h1 h2 h3
    refine ⟨fun hfit => ?_, h2, h3, fun x hxc => ?_, h5, h6.trans hq⟩
    · obtain ⟨he, hrest⟩ := TakesAll.succ m hfit
      rw [hq, he, xfer_env, xfer_draws] at h1
      rw [sendAll_cons, h1 hrest]
      simp
    · rw [sendAll_cons, h4 x hxc, xfer_periph, ha, Peripheral.get_phase, Peripheral.get_set_other _ _ hxc]

/-! ## The clock and the settling wait -/

/-- One sample: the clock moves, and nothing else but the free-value counter (R40, R136). -/
theorem now_eq (s : State) :
    (now s).1 = s.clock + clockAdvance s.env s.draws ∧
      (now s).2 = { s with clock := (now s).1, draws := s.draws + 1 } := ⟨rfl, rfl⟩

/-- The sample that ends a settling wait is at least 20 ms after the one that began it (R136). -/
theorem settledAt_late (s : State) : 20 ≤ (elapsed (settledAt s) s.settleT0).toNat := by
  unfold settledAt
  simp only [Config.settleMs]
  split
  · assumption
  · have : elapsed (s.settleT0 + BitVec.ofNat 32 20) s.settleT0 = 20 := by
      simp only [elapsed]
      rw [BitVec.add_comm]
      exact BitVec.add_sub_cancel _ _
    rw [this]
    decide

/-- The whole settling wait: one WAIT(20) event, `settle_t0` the sample that began it, the clock at least 20 ms later, the
bridge controller IDLE (R136). -/
theorem settle_spec (s : State) :
    settle s = { s with
        bstate := .idle
        settleT0 := s.clock + clockAdvance s.env s.draws
        clock := (settle s).clock
        draws := s.draws + 2
        transcript := s.transcript ++ [.wait 20] } ∧
      20 ≤ (elapsed (settle s).clock (settle s).settleT0).toNat :=
  ⟨rfl, settledAt_late _⟩

end Sys2Proof.Machine
end

