-- ==== Sys2Proof/Laws/Wire.lean ====
section
/-! SUPPORT. One lemma for what each wire transaction does: its events, its frame and its effect on the peripheral. -/

namespace Sys2Proof.Machine

/-- A bracket whose exchanges `u` add `mid` adds SEL, `mid`, DESEL (R93). -/
theorem bracket_emits {s u : State} {mid : List Event} (h : Emits (selBus s) u mid) :
    Emits s (deselBus u) (.sel :: mid ++ [.desel]) := by
  unfold Emits at *
  rw [deselBus_transcript, h, selBus_transcript]
  simp

/-- The exchanges of one loop and then another. -/
theorem emits_trans {s t u : State} {a b : List Event} (h : Emits s t a) (k : Emits t u b) : Emits s u (a ++ b) := by
  unfold Emits at *
  rw [k, h, List.append_assoc]

theorem xfer_emits (m : Byte) (s : State) : Emits s (xfer m s).2 [.xfer m (xfer m s).1] := rfl

/-- The first exchange of a bracket moves the peripheral to the phase of its command (R98). -/
theorem xfer_command_periph (opc : BitVec 4) (cc : Chan) (s : State) :
    (xfer (cmdByte opc cc) (selBus s)).2.periph =
      { s.periph.lineActivity s.env s.draws with phase := Phase.command.next (cmdByte opc cc) } := by
  rw [xfer_periph, selBus_periph, Peripheral.absorb_idle _ _ _ _ (by simp [Peripheral.selected])
    (by simp [Peripheral.selected]) (by simp [Peripheral.selected])]
  rfl

/-! ## Depth queries -/

/-- The events of a depth query: the command byte, then FILL answered by the count (R124, R125). -/
theorem wireQuery_emits (opc : BitVec 4) (cc : Chan) (s : State) :
    ∃ a, Emits s (wireQuery opc cc s).2
      [.sel, .xfer (cmdByte opc cc) a, .xfer Config.fill (wireQuery opc cc s).1, .desel] :=
  ⟨_, bracket_emits (emits_trans (xfer_emits _ _) (xfer_emits _ _))⟩

theorem wireQuery_bracketed (opc : BitVec 4) (cc : Chan) (s : State) : Bracketed s (wireQuery opc cc s).2 :=
  bracket_bracketed ((xfer_busOnly _ _).trans (xfer_busOnly _ _))

/-- A depth query leaves every queue and baud code as the select found them (R124, R125), and answers what the peripheral
counts in the queue it names. -/
theorem wireQuery_spec {opc : BitVec 4} {cc : Chan} {q : Queue} (s : State)
    (h : Phase.command.next (cmdByte opc cc) = .depth q cc) :
    (wireQuery opc cc s).2.periph = { s.periph.lineActivity s.env s.draws with phase := .off } ∧
      (wireQuery opc cc s).1 = depthAnswer s.env (s.draws + 2) ((channelAtSelect s cc).queue q) := by
  have hp := xfer_command_periph opc cc s
  rw [h] at hp
  constructor
  · show (xfer Config.fill (xfer (cmdByte opc cc) (selBus s)).2).2.periph.deselected = _
    rw [xfer_periph, hp, Peripheral.absorb_idle _ _ _ _ (by simp) (by simp) (by simp)]
    rfl
  · show Peripheral.answer (xfer (cmdByte opc cc) (selBus s)).2.periph _ _ = _
    rw [hp]
    rfl

theorem command_next_qrd (cc : Chan) : Phase.command.next (cmdByte 0x1#4 cc) = .depth .rx cc := by
  simp only [Phase.next, decodeCmd_qrd]
theorem command_next_qtd (cc : Chan) : Phase.command.next (cmdByte 0x3#4 cc) = .depth .tx cc := by
  simp only [Phase.next, decodeCmd_qtd]
theorem command_next_rx (cc : Chan) : Phase.command.next (cmdByte 0x2#4 cc) = .length .rx cc := by
  simp only [Phase.next, decodeCmd_rx]
theorem command_next_tx (cc : Chan) : Phase.command.next (cmdByte 0x4#4 cc) = .length .tx cc := by
  simp only [Phase.next, decodeCmd_tx]
theorem command_next_baud (cc : Chan) : Phase.command.next (cmdByte 0x8#4 cc) = .baud cc := by
  simp only [Phase.next, decodeCmd_baud]

/-! ## Receive -/

@[simp] theorem wireReceive_length (cc : Chan) (len : Byte) (s : State) :
    (wireReceive cc len s).1.length = len.toNat := by
  simp [wireReceive]

/-- The events of a receive: the command byte, the length byte, then FILL for each byte (R126). -/
theorem wireReceive_emits (cc : Chan) (len : Byte) (s : State) :
    ∃ a b, Emits s (wireReceive cc len s).2
      (.sel :: ([.xfer (cmdByte 0x2#4 cc) a, .xfer len b] ++ received (wireReceive cc len s).1) ++ [.desel]) :=
  ⟨_, _, bracket_emits (emits_trans (emits_trans (xfer_emits _ _) (xfer_emits _ _)) (receiveAll_emits _ _))⟩

theorem wireReceive_bracketed (cc : Chan) (len : Byte) (s : State) : Bracketed s (wireReceive cc len s).2 :=
  bracket_bracketed ((sendAll_busOnly _ _).trans (receiveAll_busOnly _ _))

/-- The peripheral as the payload of a receive or transmit begins. -/
theorem sendAll_length_periph {opc : BitVec 4} {cc : Chan} {q : Queue} (len : Byte) (s : State)
    (h : Phase.command.next (cmdByte opc cc) = .length q cc) :
    (sendAll [cmdByte opc cc, len] (selBus s)).periph =
      { s.periph.lineActivity s.env s.draws with phase := (Phase.length q cc).next len } := by
  have hp := xfer_command_periph opc cc s
  rw [h] at hp
  rw [sendAll_cons, sendAll_cons, sendAll_nil, xfer_periph, hp,
    Peripheral.absorb_idle _ _ _ _ (by simp) (by simp) (by simp)]

/-- What a receive does to the peripheral (R126, R137). -/
theorem wireReceive_spec (cc : Chan) (len : Byte) (s : State) :
    (wireReceive cc len s).1.take (channelAtSelect s cc).rq.length = (channelAtSelect s cc).rq.take len.toNat ∧
      (wireReceive cc len s).2.periph.get cc =
        { channelAtSelect s cc with rq := (channelAtSelect s cc).rq.drop len.toNat } ∧
      (∀ x, x ≠ cc → (wireReceive cc len s).2.periph.get x = channelAtSelect s x) ∧
      (wireReceive cc len s).2.periph.phase = .off := by
  have hp := sendAll_length_periph len s (command_next_rx cc)
  obtain ⟨h1, h2, h3, _, _⟩ := receiveAll_takes len.toNat (sendAll [cmdByte 0x2#4 cc, len] (selBus s)) cc (by rw [hp]; rfl)
  rw [hp] at h1 h2 h3
  exact ⟨h1, h2, h3, rfl⟩

/-! ## Transmit -/

/-- The events of a transmit: the command byte, the length byte, then the payload (R127). -/
theorem wireTransmit_emits (cc : Chan) (payload : List Byte) (s : State) :
    ∃ a b ss, ss.length = payload.length ∧ Emits s (wireTransmit cc payload s)
      (.sel :: ([.xfer (cmdByte 0x4#4 cc) a, .xfer (BitVec.ofNat 8 payload.length) b] ++ sentWith payload ss) ++ [.desel]) := by
  obtain ⟨ss, hl, he⟩ := sendAll_emits payload
    (xfer (BitVec.ofNat 8 payload.length) (xfer (cmdByte 0x4#4 cc) (selBus s)).2).2
  exact ⟨_, _, ss, hl, bracket_emits (emits_trans (emits_trans (xfer_emits _ _) (xfer_emits _ _)) he)⟩

theorem wireTransmit_bracketed (cc : Chan) (payload : List Byte) (s : State) : Bracketed s (wireTransmit cc payload s) :=
  bracket_bracketed (sendAll_busOnly _ _)

/-- What a transmit does to the peripheral (R127). -/
theorem wireTransmit_spec (cc : Chan) (payload : List Byte) (s : State) (hlen : payload.length ≤ 255) :
    (TxRoom s cc payload.length →
        ((wireTransmit cc payload s).periph.get cc).tq = (channelAtSelect s cc).tq ++ payload) ∧
      ((wireTransmit cc payload s).periph.get cc).rq = (channelAtSelect s cc).rq ∧
      ((wireTransmit cc payload s).periph.get cc).baud = (channelAtSelect s cc).baud ∧
      (∀ x, x ≠ cc → (wireTransmit cc payload s).periph.get x = channelAtSelect s x) ∧
      (wireTransmit cc payload s).periph.phase = .off := by
  have hp := sendAll_length_periph (BitVec.ofNat 8 payload.length) s (command_next_tx cc)
  have hn : (BitVec.ofNat 8 payload.length).toNat = payload.length := by
    simp only [BitVec.toNat_ofNat]
    omega
  have hq := (Peripheral.lineActivity_phase s.periph s.env s.draws).2
  obtain ⟨h1, h2, h3, h4, _, _⟩ := sendAll_appends payload
    (sendAll [cmdByte 0x4#4 cc, BitVec.ofNat 8 payload.length] (selBus s)) cc (by rw [hp]; simp only [Phase.next, hn])
  rw [hp] at h1 h2 h3 h4
  simp only [hq] at h1
  exact ⟨fun h => h1 h, h2, h3, h4, rfl⟩

/-! ## Set baud -/

/-- The events of a set-baud: the command byte, the code, and the wait after the bracket (R128). -/
theorem wireBaud_emits (cc : Chan) (code : Byte) (s : State) :
    ∃ a b, Emits s (wireBaud cc code s)
      [.sel, .xfer (cmdByte 0x8#4 cc) a, .xfer code b, .desel, .wait 20] := by
  refine ⟨_, _, emits_trans (bracket_emits (emits_trans (xfer_emits (cmdByte 0x8#4 cc) (selBus s)) (xfer_emits code _))) ?_⟩
  exact (congrArg State.transcript (settle_spec _).1)

/-- What a set-baud does: BAUD of the channel is the code (R128); `settle_t0` is the clock sample taken as the bracket
closes, and the clock is at least 20 ms later when the wait ends (R136). -/
theorem wireBaud_spec (cc : Chan) (code : Byte) (s : State) :
    (wireBaud cc code s).periph.get cc =
        { channelAtSelect s cc with baud := setBaudCode (channelAtSelect s cc).baud code } ∧
      (∀ x, x ≠ cc → (wireBaud cc code s).periph.get x = channelAtSelect s x) ∧
      (wireBaud cc code s).periph.phase = .off ∧
      (wireBaud cc code s).settleT0 = s.clock + clockAdvance s.env (s.draws + 3) ∧
      20 ≤ (elapsed (wireBaud cc code s).clock (wireBaud cc code s).settleT0).toNat := by
  have hp := xfer_command_periph 0x8#4 cc s
  rw [command_next_baud] at hp
  have hb : (wireBaud cc code s).periph =
      ((xfer (cmdByte 0x8#4 cc) (selBus s)).2.periph.absorb s.env (s.draws + 2) code).deselected := rfl
  rw [hp, Peripheral.absorb_baud (p := { s.periph.lineActivity s.env s.draws with phase := .baud cc }) rfl] at hb
  refine ⟨?_, fun x hx => ?_, ?_, rfl, (settle_spec _).2⟩
  · rw [hb]
    exact Peripheral.get_set_same _ _ _
  · rw [hb]
    exact Peripheral.get_set_other _ _ hx
  · rw [hb]
    rfl

/-- A set-baud changes what a bracket changes, and `settle_t0` and the clock (R135, R136). -/
theorem wireBaud_frame (cc : Chan) (code : Byte) (s : State) :
    wireBaud cc code s = { s with
      sel := false
      bstate := .idle
      periph := (wireBaud cc code s).periph
      draws := (wireBaud cc code s).draws
      transcript := (wireBaud cc code s).transcript
      settleT0 := (wireBaud cc code s).settleT0
      clock := (wireBaud cc code s).clock } := rfl

end Sys2Proof.Machine
end

