-- ==== Sys2Proof/Laws/Bridge.lean ====
section
/-! SUPPORT. The bridge operations that the views and the sensor session are made of: their frames, and what they answer at
the reference peripheral (R264). -/

namespace Sys2Proof.Machine

/-- A bridge operation changes no more than brackets do; on an absent channel it changes nothing (R120, R121). -/
theorem queryReceiveDepth_frame (c : Byte) (s : State) :
    (queryReceiveDepth c s).2 = s ∨ Bracketed s (queryReceiveDepth c s).2 := by
  unfold queryReceiveDepth
  split
  · exact .inr (wireQuery_bracketed _ _ _)
  · exact .inl rfl

theorem queryTransmitDepth_frame (c : Byte) (s : State) :
    (queryTransmitDepth c s).2 = s ∨ Bracketed s (queryTransmitDepth c s).2 := by
  unfold queryTransmitDepth
  split
  · exact .inr (wireQuery_bracketed _ _ _)
  · exact .inl rfl

theorem receiveByte_frame (c : Byte) (s : State) :
    (receiveByte c s).2 = s ∨ Bracketed s (receiveByte c s).2 := by
  unfold receiveByte
  split
  · exact .inr (wireReceive_bracketed _ _ _)
  · exact .inl rfl

theorem transmitByte_frame (c v : Byte) (s : State) : transmitByte c v s = s ∨ Bracketed s (transmitByte c v s) := by
  unfold transmitByte
  split
  · exact .inr (wireTransmit_bracketed _ _ _)
  · exact .inl rfl

/-! ## The reference peripheral -/

/-- QRD at the reference peripheral: the depth of RQ up to 255, and the peripheral unchanged. -/
theorem queryReceiveDepth_reference {c : Byte} {cc : Chan} {s : State} (he : s.env = .reference)
    (hc : channel? c = some cc) :
    (queryReceiveDepth c s).1 = depthByte (s.periph.get cc).rq ∧
      (queryReceiveDepth c s).2.periph = { s.periph with phase := .off } := by
  obtain ⟨h1, h2⟩ := wireQuery_spec s (command_next_qrd cc)
  simp only [he, channelAtSelect, Peripheral.lineActivity_reference] at h1 h2
  simp only [queryReceiveDepth, hc]
  exact ⟨h2, h1⟩

/-- QTD at the reference peripheral. -/
theorem queryTransmitDepth_reference {c : Byte} {cc : Chan} {s : State} (he : s.env = .reference)
    (hc : channel? c = some cc) :
    (queryTransmitDepth c s).1 = depthByte (s.periph.get cc).tq ∧
      (queryTransmitDepth c s).2.periph = { s.periph with phase := .off } := by
  obtain ⟨h1, h2⟩ := wireQuery_spec s (command_next_qtd cc)
  simp only [he, channelAtSelect, Peripheral.lineActivity_reference] at h1 h2
  simp only [queryTransmitDepth, hc]
  exact ⟨h2, h1⟩

/-- A receive at the reference peripheral. -/
theorem wireReceive_reference (cc : Chan) (len : Byte) {s : State} (he : s.env = .reference) :
    (wireReceive cc len s).1 = (s.periph.get cc).rq.take len.toNat ++
      List.replicate (len.toNat - (s.periph.get cc).rq.length) 0x00#8 := by
  have hp := sendAll_length_periph len s (command_next_rx cc)
  have hr := receiveAll_reference len.toNat (sendAll [cmdByte 0x2#4 cc, len] (selBus s)) cc he (by rw [hp]; rfl)
  rw [hp] at hr
  simp only [he, Peripheral.lineActivity_reference, Peripheral.get_phase] at hr
  exact hr

/-- RXB at the reference peripheral: the oldest byte of RQ, or 0x00. -/
theorem receiveByte_reference {c : Byte} {cc : Chan} {s : State} (he : s.env = .reference)
    (hc : channel? c = some cc) :
    (receiveByte c s).1 = (s.periph.get cc).rq.headD 0x00#8 ∧
      (receiveByte c s).2.periph.get cc = { s.periph.get cc with rq := (s.periph.get cc).rq.tail } := by
  obtain ⟨_, h2, _⟩ := wireReceive_spec cc 0x01#8 s
  have h1 := wireReceive_reference cc 0x01#8 he
  simp only [receiveByte, hc, h1, h2, channelAtSelect, he, Peripheral.lineActivity_reference]
  cases (s.periph.get cc).rq <;> simp

/-- A transmit into a full queue of the reference peripheral is dropped. -/
theorem wireTransmit_reference_full (cc : Chan) (v : Byte) {s : State} (he : s.env = .reference)
    (h : s.periph.qcap ≤ (s.periph.get cc).tq.length) :
    ((wireTransmit cc [v] s).periph.get cc).tq = (s.periph.get cc).tq := by
  have hp := sendAll_length_periph (BitVec.ofNat 8 1) s (command_next_tx cc)
  have hq : (wireTransmit cc [v] s).periph =
      ((sendAll [cmdByte 0x4#4 cc, BitVec.ofNat 8 1] (selBus s)).periph.absorb s.env (s.draws + 3) v).deselected := rfl
  rw [hp, he, Peripheral.lineActivity_reference] at hq
  have ha := Peripheral.absorb_transmit (p := { s.periph with phase := .transmit cc 1 }) rfl .reference (s.draws + 3) v
  rw [hq.trans (congrArg Peripheral.deselected ha)]
  show ((Peripheral.set { s.periph with phase := .transmit cc 1 } cc _).get cc).tq = _
  rw [Peripheral.get_set_same]
  simp [enqueue, Nat.not_lt.mpr h]

end Sys2Proof.Machine
end

