-- ==== Sys2Proof/Laws/Encoding.lean ====
section
/-! SUPPORT. The pieces of the encodings: 32-bit operands, and the shape of every command byte. -/

namespace Sys2Proof

/-- The four bytes of a 32-bit operand are read back as the operand. -/
theorem word32_bytes32 (w : BitVec 32) :
    word32 (w.extractLsb' 24 8) (w.extractLsb' 16 8) (w.extractLsb' 8 8) (w.extractLsb' 0 8) = w := by
  apply BitVec.eq_of_getLsbD_eq
  intro i hi
  simp only [word32, BitVec.getLsbD_append, BitVec.getLsbD_extractLsb']
  by_cases h1 : i < 8
  · simp [h1]
  · by_cases h2 : i - 8 < 8
    · simp [h1, h2, show 8 + (i - 8) = i by omega]
    · by_cases h3 : i - 8 - 8 < 8
      · simp [h1, h2, h3, show 16 + (i - 8 - 8) = i by omega]
      · simp [h1, h2, h3, show 24 + (i - 8 - 8 - 8) = i by omega, show i - 8 - 8 - 8 < 8 by omega]

/-- The bytes of the operand four bytes make are those bytes. -/
theorem bytes32_word32 (b3 b2 b1 b0 : Byte) : bytes32 (word32 b3 b2 b1 b0) = [b3, b2, b1, b0] := by
  simp only [bytes32, word32, List.cons.injEq, and_true]
  refine ⟨?_, ?_, ?_, ?_⟩ <;>
    (apply BitVec.eq_of_getLsbD_eq
     intro i hi
     simp only [BitVec.getLsbD_append, BitVec.getLsbD_extractLsb', hi, decide_true, Bool.true_and])
  · simp [show ¬ 24 + i < 8 by omega, show ¬ 24 + i - 8 < 8 by omega, show ¬ 24 + i - 8 - 8 < 8 by omega,
      show 24 + i - 8 - 8 - 8 = i by omega]
  · simp [show ¬ 16 + i < 8 by omega, show ¬ 16 + i - 8 < 8 by omega, show 16 + i - 8 - 8 = i by omega, hi]
  · simp [show ¬ 8 + i < 8 by omega, show 8 + i - 8 = i by omega, hi]
  · simp [hi]

/-- A byte that decodes to a command is that command's byte (R92, R98). -/
theorem decodeCmd_inv : ∀ (b : Byte) (cc : Chan),
    (decodeCmd b = .qrd cc → b = cmdByte 0x1#4 cc) ∧ (decodeCmd b = .rx cc → b = cmdByte 0x2#4 cc) ∧
    (decodeCmd b = .qtd cc → b = cmdByte 0x3#4 cc) ∧ (decodeCmd b = .tx cc → b = cmdByte 0x4#4 cc) ∧
    (decodeCmd b = .baud cc → b = cmdByte 0x8#4 cc) := by decide +kernel

end Sys2Proof
end

