-- ==== Sys2Proof/Laws/PerInstr.lean ====
section
/-! SUPPORT. The per-instruction family EncodedLayer: the first byte of every encoded instruction, by its layer. -/

namespace Sys2Proof.Laws.EncodedLayer

/-- A host operation is encoded behind its operation code (R100, R101); a wire command begins with a byte that decodes to a
command (R98). -/
def Statement (i : Instr) : Prop :=
  match i.layer with
  | .host => ∃ op, hostOpCode i = some op ∧ encode i = op :: encodeTail i
  | .wire => hostOpCode i = none ∧ ∃ b rest, encode i = b :: rest ∧ decodeCmd b ≠ .invalid

theorem commands_valid : ∀ cc : Chan, decodeCmd (cmdByte 0x1#4 cc) ≠ .invalid ∧ decodeCmd (cmdByte 0x2#4 cc) ≠ .invalid ∧
    decodeCmd (cmdByte 0x3#4 cc) ≠ .invalid ∧ decodeCmd (cmdByte 0x4#4 cc) ≠ .invalid ∧
    decodeCmd (cmdByte 0x8#4 cc) ≠ .invalid := by decide

theorem cmdQrd (cc : Chan) : Statement (.cmdQrd cc) := ⟨rfl, _, _, rfl, (commands_valid cc).1⟩
theorem cmdRx (cc : Chan) (len : Byte) : Statement (.cmdRx cc len) := ⟨rfl, _, _, rfl, (commands_valid cc).2.1⟩
theorem cmdQtd (cc : Chan) : Statement (.cmdQtd cc) := ⟨rfl, _, _, rfl, (commands_valid cc).2.2.1⟩
theorem cmdTx (cc : Chan) (payload : List Byte) : Statement (.cmdTx cc payload) :=
  ⟨rfl, _, _, rfl, (commands_valid cc).2.2.2.1⟩
theorem cmdBaud (cc : Chan) (code : Byte) : Statement (.cmdBaud cc code) :=
  ⟨rfl, _, _, rfl, (commands_valid cc).2.2.2.2⟩
theorem qrd (c : Byte) : Statement (.qrd c) := ⟨_, rfl, rfl⟩
theorem qtd (c : Byte) : Statement (.qtd c) := ⟨_, rfl, rfl⟩
theorem rxb (c : Byte) : Statement (.rxb c) := ⟨_, rfl, rfl⟩
theorem rxn (c len : Byte) (dst : Ref) : Statement (.rxn c len dst) := ⟨_, rfl, rfl⟩
theorem txb (c v : Byte) : Statement (.txb c v) := ⟨_, rfl, rfl⟩
theorem txn (c len : Byte) (src : Ref) : Statement (.txn c len src) := ⟨_, rfl, rfl⟩
theorem setBaud (c code : Byte) : Statement (.setBaud c code) := ⟨_, rfl, rfl⟩
theorem avail (k : Byte) : Statement (.avail k) := ⟨_, rfl, rfl⟩
theorem read (k : Byte) : Statement (.read k) := ⟨_, rfl, rfl⟩
theorem readn (k len : Byte) (dst : Ref) : Statement (.readn k len dst) := ⟨_, rfl, rfl⟩
theorem write (k v : Byte) : Statement (.write k v) := ⟨_, rfl, rfl⟩
theorem writen (k len : Byte) (src : Ref) : Statement (.writen k len src) := ⟨_, rfl, rfl⟩
theorem beginRate (k : Byte) (rate : Rate) : Statement (.beginRate k rate) := ⟨_, rfl, rfl⟩
theorem peek (k : Byte) : Statement (.peek k) := ⟨_, rfl, rfl⟩
theorem parse (k : Byte) : Statement (.parse k) := ⟨_, rfl, rfl⟩
theorem readDist : Statement .readDist := ⟨_, rfl, rfl⟩
theorem setProc (b : Bool) : Statement (.setProc b) := ⟨_, rfl, rfl⟩
theorem getDist : Statement .getDist := ⟨_, rfl, rfl⟩
theorem getLr : Statement .getLr := ⟨_, rfl, rfl⟩
theorem getLs : Statement .getLs := ⟨_, rfl, rfl⟩
theorem getStat : Statement .getStat := ⟨_, rfl, rfl⟩
theorem getRes : Statement .getRes := ⟨_, rfl, rfl⟩
theorem getMode : Statement .getMode := ⟨_, rfl, rfl⟩

end Sys2Proof.Laws.EncodedLayer
end

