-- ==== Sys2Proof/Laws/Transcript.lean ====
section
/-! SUPPORT. The transcript: every bridge operation appends whole brackets (R72, R93). -/

namespace Sys2Proof

open Machine

theorem watch_append (w : Watch) (a b : List Event) :
    watch w (a ++ b) = (watch w a).bind (fun w' => watch w' b) := by
  induction a generalizing w with
  | nil => rfl
  | cons e rest ih =>
    simp only [List.cons_append, watch]
    cases w.next e with
    | none => rfl
    | some w' => exact ih w'

/-- `t` has a transcript of whole brackets more than `s` has. -/
def Whole (s t : State) : Prop := ∃ events, Emits s t events ∧ watch .outside events = some .outside

theorem Whole.refl (s : State) : Whole s s := ⟨[], by simp [Emits], rfl⟩

theorem Whole.trans {s t u : State} (h : Whole s t) (k : Whole t u) : Whole s u := by
  obtain ⟨a, ha, wa⟩ := h
  obtain ⟨b, hb, wb⟩ := k
  exact ⟨a ++ b, emits_trans ha hb, by rw [watch_append, wa]; exact wb⟩

/-- A change outside the transcript, such as a reply. -/
theorem Whole.then {s t u : State} (h : Whole s t) (k : u.transcript = t.transcript) : Whole s u := by
  obtain ⟨e, he, we⟩ := h
  exact ⟨e, by unfold Emits at *; rw [k, he], we⟩

/-- Whole brackets after a transcript of whole brackets. -/
theorem Whole.wellBracketed {s t : State} (h : Whole s t) (k : wellBracketed s.transcript = true) :
    Sys2Proof.wellBracketed t.transcript = true := by
  obtain ⟨e, he, we⟩ := h
  unfold Sys2Proof.wellBracketed at *
  unfold Emits at he
  simp only [decide_eq_true_eq] at *
  rw [he, watch_append, k]
  exact we

/-! ## The five brackets -/

theorem watch_query {opc : BitVec 4} {cc : Chan} {q : Queue} (a n : Byte)
    (h : Phase.command.next (cmdByte opc cc) = .depth q cc) (hv : decodeCmd (cmdByte opc cc) ≠ .invalid) :
    watch .outside [.sel, .xfer (cmdByte opc cc) a, .xfer Config.fill n, .desel] = some .outside := by
  simp [watch, Watch.next, sendable, hv, h]
  rfl

theorem wireQrd_whole (cc : Chan) (s : State) : Whole s (wireQuery 0x1#4 cc s).2 := by
  obtain ⟨a, he⟩ := wireQuery_emits 0x1#4 cc s
  exact ⟨_, he, watch_query _ _ (command_next_qrd cc) (by rw [decodeCmd_qrd]; simp)⟩

theorem wireQtd_whole (cc : Chan) (s : State) : Whole s (wireQuery 0x3#4 cc s).2 := by
  obtain ⟨a, he⟩ := wireQuery_emits 0x3#4 cc s
  exact ⟨_, he, watch_query _ _ (command_next_qtd cc) (by rw [decodeCmd_qtd]; simp)⟩

/-- The payload of a receive, then DESEL. -/
theorem watch_received (cc : Chan) (bs : List Byte) :
    watch (.inside (Phase.receiving cc bs.length)) (received bs ++ [.desel]) = some .outside := by
  induction bs with
  | nil => rfl
  | cons b rest ih =>
    simpa [received, watch, Watch.next, sendable, Phase.receiving, Phase.next] using ih

/-- The payload of a transmit, then DESEL. -/
theorem watch_sent (cc : Chan) (ms ss : List Byte) (h : ss.length = ms.length) :
    watch (.inside (Phase.transmitting cc ms.length)) (sentWith ms ss ++ [.desel]) = some .outside := by
  induction ms generalizing ss with
  | nil =>
    cases ss with
    | nil => rfl
    | cons _ _ => simp at h
  | cons m rest ih =>
    cases ss with
    | nil => simp at h
    | cons x xs =>
      have := ih xs (by simpa using h)
      simpa [sentWith, watch, Watch.next, sendable, Phase.transmitting, Phase.next] using this

theorem wireReceive_whole (cc : Chan) (len : Byte) (s : State) : Whole s (wireReceive cc len s).2 := by
  obtain ⟨a, b, he⟩ := wireReceive_emits cc len s
  refine ⟨_, he, ?_⟩
  have hw := watch_received cc (wireReceive cc len s).1
  rw [wireReceive_length] at hw
  have hv : decodeCmd (cmdByte 0x2#4 cc) ≠ .invalid := by rw [decodeCmd_rx]; simp
  simp only [List.cons_append, List.nil_append, watch, Watch.next, sendable, hv, ne_eq, not_false_eq_true, decide_true,
    if_true, command_next_rx]
  exact hw

theorem wireTransmit_whole (cc : Chan) (payload : List Byte) (s : State) (hl : payload.length ≤ 255) :
    Whole s (wireTransmit cc payload s) := by
  obtain ⟨a, b, ss, hs, he⟩ := wireTransmit_emits cc payload s
  refine ⟨_, he, ?_⟩
  have hw := watch_sent cc payload ss hs
  have hv : decodeCmd (cmdByte 0x4#4 cc) ≠ .invalid := by rw [decodeCmd_tx]; simp
  have hn : (BitVec.ofNat 8 payload.length).toNat = payload.length := by
    simp only [BitVec.toNat_ofNat]
    omega
  have ht : (Phase.length .tx cc).next (BitVec.ofNat 8 payload.length) = Phase.transmitting cc payload.length := by
    simp only [Phase.next, hn]
  simp only [List.cons_append, List.nil_append, watch, Watch.next, sendable, hv, ne_eq, not_false_eq_true, decide_true,
    if_true, command_next_tx, ht]
  exact hw

theorem wireBaud_whole (cc : Chan) (code : Byte) (s : State) (hc : code.toNat < 10) :
    Whole s (wireBaud cc code s) := by
  obtain ⟨a, b, he⟩ := wireBaud_emits cc code s
  refine ⟨_, he, ?_⟩
  have hv : decodeCmd (cmdByte 0x8#4 cc) ≠ .invalid := by rw [decodeCmd_baud]; simp
  have hn : (Phase.baud cc).next code = .complete true := rfl
  simp [watch, Watch.next, sendable, hv, command_next_baud, hn, Config.nBaud, hc]

/-! ## The bridge operations -/

theorem queryReceiveDepth_whole (c : Byte) (s : State) : Whole s (queryReceiveDepth c s).2 := by
  unfold queryReceiveDepth
  split
  · exact wireQrd_whole _ _
  · exact .refl s

theorem queryTransmitDepth_whole (c : Byte) (s : State) : Whole s (queryTransmitDepth c s).2 := by
  unfold queryTransmitDepth
  split
  · exact wireQtd_whole _ _
  · exact .refl s

theorem receiveByte_whole (c : Byte) (s : State) : Whole s (receiveByte c s).2 := by
  unfold receiveByte
  split
  · exact wireReceive_whole _ _ _
  · exact .refl s

theorem transmitByte_whole (c v : Byte) (s : State) : Whole s (transmitByte c v s) := by
  unfold transmitByte
  split
  · exact wireTransmit_whole _ _ _ (by simp)
  · exact .refl s

theorem setBaudRate_whole (c code : Byte) (s : State) : Whole s (setBaudRate c code s) := by
  unfold setBaudRate
  split
  · split
    · exact wireBaud_whole _ _ _ (by assumption)
    · exact .refl s
  · exact .refl s

/-- A buffer receive that completes has added whole brackets. -/
theorem receiveBuffer_whole {c len : Byte} {dst : Ref} {s t : State} (h : receiveBuffer c len dst s = .next t) :
    Whole s t := by
  unfold receiveBuffer at h
  split at h
  · cases h
    exact .refl s
  · split at h
    · cases h
      exact (wireReceive_whole _ len s).then rfl
    · cases h

/-- A buffer transmit that completes has added whole brackets. -/
theorem transmitBuffer_whole {c len : Byte} {src : Ref} {s t : State} (h : transmitBuffer c len src s = .next t) :
    Whole s t := by
  unfold transmitBuffer at h
  split at h
  · cases h
    exact .refl s
  · split at h
    · cases h
      have hl : (readBuffer s.mem src 0 len.toNat).length ≤ 255 := by
        rw [readBuffer_length]
        have := len.isLt
        omega
      exact (wireTransmit_whole _ _ s hl).then rfl
    · cases h

end Sys2Proof
end

