-- ==== Sys2Proof/Laws/Sensor.lean ====
section
/-! SUPPORT. The sensor session: what an attempt can leave (R201 to R210), said once for every length of its scan. -/

namespace Sys2Proof.Machine

open Sys2Proof

/-- An attempt that has ended: its timestamp (R209), its reply (R210) and one of the outcomes of R203 to R208. -/
def Ended (t0 : Clock) (s u : State) : Prop :=
  u.session = .idle ∧ u.lastReadMs = t0 ∧ Returns s u (.code u.result) ∧
    (((u.status, u.result) ∈ [((2 : Code), (4 : Code)), (3, 3), (4, 4), (1, 2)] ∧
        u.distance = s.distance ∧ u.lastSuccessMs = s.lastSuccessMs) ∨
      (u.status = 1 ∧ u.result = 1 ∧ u.lastSuccessMs = t0 ∧ ∃ hi lo : Byte, u.distance = decodedDistance hi lo))

/-- An attempt whose scan still runs: no session register written, nothing returned (R204). -/
def StillScanning (t0 : Clock) (s u : State) : Prop :=
  u.session = .scanning t0 ∧ SameSession s u ∧ u.returned = s.returned

/-- The attempts that need no session register of the state they start in: bridge operations only lie between. -/
def SameForSession (s u : State) : Prop :=
  AttemptFrame s u ∧ SameSession s u ∧ u.returned = s.returned ∧ u.grant = s.grant

theorem SameForSession.refl (s : State) : SameForSession s s :=
  ⟨rfl, ⟨rfl, rfl, rfl, rfl, rfl⟩, rfl, rfl⟩

theorem attemptFrame_trans {s t u : State} (h : AttemptFrame s t) (k : AttemptFrame t u) : AttemptFrame s u := by
  unfold AttemptFrame at *
  rw [k, h]

theorem SameForSession.trans {s t u : State} (h : SameForSession s t) (k : SameForSession t u) :
    SameForSession s u := by
  obtain ⟨h1, ⟨h2, h3, h4, h5, h6⟩, h7, h8⟩ := h
  obtain ⟨k1, ⟨k2, k3, k4, k5, k6⟩, k7, k8⟩ := k
  exact ⟨attemptFrame_trans h1 k1, ⟨k2.trans h2, k3.trans h3, k4.trans h4, k5.trans h5, k6.trans h6⟩, k7.trans h7, k8.trans h8⟩

theorem Bracketed.sameForSession {s t : State} (h : Bracketed s t) : SameForSession s t := by
  unfold Bracketed at h
  rw [h]
  exact ⟨rfl, ⟨rfl, rfl, rfl, rfl, rfl⟩, rfl, rfl⟩

theorem queryReceiveDepth_same (c : Byte) (s : State) : SameForSession s (queryReceiveDepth c s).2 := by
  rcases queryReceiveDepth_frame c s with h | h
  · rw [h]
    exact .refl s
  · exact h.sameForSession

theorem receiveByte_same (c : Byte) (s : State) : SameForSession s (receiveByte c s).2 := by
  rcases receiveByte_frame c s with h | h
  · rw [h]
    exact .refl s
  · exact h.sameForSession

/-- Whatever an attempt does after bridge operations, it does from the state before them. -/
theorem SameForSession.attempted {s t u : State} (h : SameForSession s t) (k : AttemptFrame t u) : AttemptFrame s u :=
  attemptFrame_trans h.1 k

theorem SameForSession.ended {s t u : State} {t0 : Clock} (h : SameForSession s t) (k : Ended t0 t u) :
    Ended t0 s u := by
  obtain ⟨_, ⟨_, _, hd, _, hl⟩, hr, hg⟩ := h
  obtain ⟨k1, k2, k3, k4⟩ := k
  refine ⟨k1, k2, ?_, ?_⟩
  · unfold Returns at *
    rw [k3, hr, hg]
  · rwa [hd, hl] at k4

theorem SameForSession.stillScanning {s t u : State} {t0 : Clock} (h : SameForSession s t) (k : StillScanning t0 t u) :
    StillScanning t0 s u := by
  obtain ⟨_, ⟨h2, h3, h4, h5, h6⟩, hr, _⟩ := h
  obtain ⟨k1, ⟨k2, k3, k4, k5, k6⟩, k7⟩ := k
  exact ⟨k1, ⟨k2.trans h2, k3.trans h3, k4.trans h4, k5.trans h5, k6.trans h6⟩, k7.trans hr⟩

/-- A failed attempt. -/
theorem endAttempt_ended {st res : Code} (h : (st, res) ∈ [((2 : Code), (4 : Code)), (3, 3), (4, 4), (1, 2)])
    (t0 : Clock) (s : State) : AttemptFrame s (endAttempt t0 st res s) ∧ Ended t0 s (endAttempt t0 st res s) :=
  ⟨rfl, rfl, rfl, rfl, .inl ⟨h, rfl, rfl⟩⟩

/-- A frame's three bytes end the attempt, one way or the other (R206 to R208). -/
theorem completeFrame_ended (c : Byte) (t0 : Clock) (s : State) :
    AttemptFrame s (completeFrame c t0 s) ∧ Ended t0 s (completeFrame c t0 s) ∧ Whole s (completeFrame c t0 s) := by
  have h := ((receiveByte_same c s).trans (receiveByte_same c _)).trans (receiveByte_same c _)
  have w := ((receiveByte_whole c s).trans (receiveByte_whole c _)).trans (receiveByte_whole c _)
  unfold completeFrame
  simp only
  split
  · refine ⟨h.attempted rfl, h.ended ⟨rfl, rfl, rfl, .inr ⟨rfl, rfl, rfl, _, _, rfl⟩⟩, w⟩
  · have e := endAttempt_ended (st := Config.stReadOk) (res := Config.resChecksumMismatch) (by decide) t0
      (receiveByte c (receiveByte c (receiveByte c s).2).2).2
    exact ⟨h.attempted e.1, h.ended e.2, w⟩

theorem afterHeader_ended (c : Byte) (t0 : Clock) (s : State) :
    AttemptFrame s (afterHeader c t0 s) ∧ Ended t0 s (afterHeader c t0 s) ∧ Whole s (afterHeader c t0 s) := by
  have h := queryReceiveDepth_same c s
  have w := queryReceiveDepth_whole c s
  unfold afterHeader
  simp only
  split
  · have e := endAttempt_ended (st := Config.stIncompleteFrame) (res := Config.resIncompleteFrame) (by decide) t0
      (queryReceiveDepth c s).2
    exact ⟨h.attempted e.1, h.ended e.2, w⟩
  · obtain ⟨e1, e2, e3⟩ := completeFrame_ended c t0 (queryReceiveDepth c s).2
    exact ⟨h.attempted e1, h.ended e2, w.trans e3⟩

/-- The header scan, however long: it ends the attempt or still runs, and adds whole brackets (R204). -/
theorem scanHeader_outcome (c : Byte) (t0 : Clock) (fuel : Nat) (s : State) :
    AttemptFrame s (scanHeader c t0 fuel s) ∧
      (StillScanning t0 s (scanHeader c t0 fuel s) ∨ Ended t0 s (scanHeader c t0 fuel s)) ∧
      Whole s (scanHeader c t0 fuel s) := by
  induction fuel generalizing s with
  | zero => exact ⟨rfl, .inl ⟨rfl, ⟨rfl, rfl, rfl, rfl, rfl⟩, rfl⟩, ⟨[], by simp [Emits, scanHeader], rfl⟩⟩
  | succ fuel ih =>
    have hq := queryReceiveDepth_same c s
    have wq := queryReceiveDepth_whole c s
    unfold scanHeader
    simp only
    split
    · have e := endAttempt_ended (st := Config.stHeaderNotFound) (res := Config.resHeaderNotFound) (by decide) t0
        (queryReceiveDepth c s).2
      exact ⟨hq.attempted e.1, .inr (hq.ended e.2), wq⟩
    · have hb := hq.trans (receiveByte_same c (queryReceiveDepth c s).2)
      have wb := wq.trans (receiveByte_whole c (queryReceiveDepth c s).2)
      split
      · obtain ⟨e1, e2, e3⟩ := afterHeader_ended c t0 (receiveByte c (queryReceiveDepth c s).2).2
        exact ⟨hb.attempted e1, .inr (hb.ended e2), wb.trans e3⟩
      · obtain ⟨e1, e2, e3⟩ := ih (receiveByte c (queryReceiveDepth c s).2).2
        exact ⟨hb.attempted e1, e2.imp hb.stillScanning hb.ended, wb.trans e3⟩

/-- An admitted attempt (R203 to R210). -/
theorem attempt_outcome (c : Byte) (t0 : Clock) (s : State) :
    AttemptFrame s (attempt c t0 s) ∧ (StillScanning t0 s (attempt c t0 s) ∨ Ended t0 s (attempt c t0 s)) ∧
      Whole s (attempt c t0 s) := by
  have hq := queryReceiveDepth_same c s
  have wq := queryReceiveDepth_whole c s
  unfold attempt
  simp only
  split
  · have e := endAttempt_ended (st := Config.stFrameTooShort) (res := Config.resIncompleteFrame) (by decide) t0
      (queryReceiveDepth c s).2
    exact ⟨hq.attempted e.1, .inr (hq.ended e.2), wq⟩
  · obtain ⟨e1, e2, e3⟩ := scanHeader_outcome c t0 (scanBudget c (queryReceiveDepth c s).2) (queryReceiveDepth c s).2
    exact ⟨hq.attempted e1, e2.imp hq.stillScanning hq.ended, wq.trans e3⟩

/-! ## The transcript of an attempt (R221) -/

/-- A depth query on a channel 0..3 is one QRD bracket that answers what it returns (R129). -/
theorem queryReceiveDepth_asked {c : Byte} (h : c.toNat < 4) (s : State) :
    ∃ es, AskedDepth c (queryReceiveDepth c s).1 es ∧ Emits s (queryReceiveDepth c s).2 es := by
  obtain ⟨a, he⟩ := wireQuery_emits 0x1#4 (c.extractLsb' 0 2) s
  rw [cmdByte_of_channel? (channel?_of_lt h)] at he
  simp only [queryReceiveDepth, channel?_of_lt h]
  exact ⟨_, ⟨a, rfl⟩, he⟩

/-- A receive on a channel 0..3 is one RXB bracket that answers what it returns (R131). -/
theorem receiveByte_took {c : Byte} (h : c.toNat < 4) (s : State) :
    ∃ es, TookByte c (receiveByte c s).1 es ∧ Emits s (receiveByte c s).2 es := by
  obtain ⟨a, b, he⟩ := wireReceive_emits (c.extractLsb' 0 2) 1#8 s
  have hl := wireReceive_length (c.extractLsb' 0 2) 1#8 s
  rw [cmdByte_of_channel? (channel?_of_lt h)] at he
  simp only [receiveByte, channel?_of_lt h]
  match hw : (wireReceive (c.extractLsb' 0 2) 1#8 s).1, hl with
  | [r], _ =>
    rw [hw] at he
    exact ⟨_, ⟨a, b, rfl⟩, by simpa [received] using he⟩

theorem skipped_append {c : Byte} {es fs : List Event} (h : Skipped c es) (k : Skipped c fs) : Skipped c (es ++ fs) := by
  induction h with
  | none => exact k
  | more hq hn hb hne _ ih => simpa only [List.append_assoc] using Skipped.more hq hn hb hne ih

/-- A scan may be begun with any steps that find no header (R204). -/
theorem scanEvents_after_skipped {c : Byte} {e : AttemptEnd} {es fs : List Event} (h : Skipped c es)
    (k : ScanEvents c e fs) : ScanEvents c e (es ++ fs) := by
  cases k with
  | noHeader hs hz => simpa only [List.append_assoc] using ScanEvents.noHeader (skipped_append h hs) hz
  | incomplete hs hm hn hh hk hlt =>
    simpa only [List.append_assoc] using ScanEvents.incomplete (skipped_append h hs) hm hn hh hk hlt
  | frame hs hm hn hh hk hle hx hy hz =>
    simpa only [List.append_assoc] using ScanEvents.frame (skipped_append h hs) hm hn hh hk hle hx hy hz

/-- What an attempt leaves it leaves from the state before its bridge operations. -/
theorem attemptLeaves_of_same {t0 : Clock} {e : AttemptEnd} {s t u : State} (h : SameForSession s t)
    (k : AttemptLeaves t0 e t u) : AttemptLeaves t0 e s u := by
  obtain ⟨-, ⟨-, -, hd, -, hl⟩, hr, hg⟩ := h
  obtain ⟨k1, k2, k3⟩ := k
  refine ⟨k1, ?_, ?_⟩
  · unfold Returns at *
    rw [k2, hr, hg]
  · rwa [hd, hl] at k3

/-- The frame's three bytes decide what the attempt leaves (R206 to R208). -/
theorem completeFrame_events {c : Byte} (h : c.toNat < 4) (t0 : Clock) (s : State) :
    ∃ hi lo cs x y z, TookByte c hi x ∧ TookByte c lo y ∧ TookByte c cs z ∧
      Emits s (completeFrame c t0 s) (x ++ y ++ z) ∧ AttemptLeaves t0 (.frame hi lo cs) s (completeFrame c t0 s) := by
  obtain ⟨x, tx, ex⟩ := receiveByte_took h s
  obtain ⟨y, ty, ey⟩ := receiveByte_took h (receiveByte c s).2
  obtain ⟨z, tz, ez⟩ := receiveByte_took h (receiveByte c (receiveByte c s).2).2
  have hs := ((receiveByte_same c s).trans (receiveByte_same c _)).trans (receiveByte_same c _)
  refine ⟨_, _, _, x, y, z, tx, ty, tz, ?_, attemptLeaves_of_same hs ?_⟩
  · have := emits_trans (emits_trans ex ey) ez
    unfold completeFrame
    simp only
    split <;> exact this
  · unfold completeFrame
    simp only
    split
    · exact ⟨rfl, rfl, rfl, by rw [if_pos (by assumption)]; exact ⟨rfl, rfl, rfl⟩⟩
    · exact ⟨rfl, rfl, rfl, by rw [if_neg (by assumption)]; exact ⟨rfl, rfl, rfl⟩⟩

/-- A header scan on a channel 0..3, however long, by its transcript: it has skipped bytes, at least one if it may test
at all, and still runs, or it has ended as its transcript says (R204 to R210, R221). -/
theorem scanHeader_events {c : Byte} (h : c.toNat < 4) (t0 : Clock) (fuel : Nat) (s : State) :
    (StillScanning t0 s (scanHeader c t0 fuel s) ∧
        ∃ sk, Skipped c sk ∧ (fuel ≠ 0 → sk ≠ []) ∧ Emits s (scanHeader c t0 fuel s) sk) ∨
      ((scanHeader c t0 fuel s).session = .idle ∧ ∃ e es, ScanEvents c e es ∧ Emits s (scanHeader c t0 fuel s) es ∧
        AttemptLeaves t0 e s (scanHeader c t0 fuel s)) := by
  induction fuel generalizing s with
  | zero => exact .inl ⟨⟨rfl, ⟨rfl, rfl, rfl, rfl, rfl⟩, rfl⟩, [], .none, by simp, by simp [Emits, scanHeader]⟩
  | succ fuel ih =>
    obtain ⟨q, aq, eq⟩ := queryReceiveDepth_asked h s
    have sq := queryReceiveDepth_same c s
    unfold scanHeader
    simp only
    split <;> rename_i hn
    · rw [hn] at aq
      exact .inr ⟨rfl, .noHeader, _, .noHeader .none aq, eq,
        attemptLeaves_of_same sq ⟨rfl, rfl, rfl, rfl, rfl, rfl⟩⟩
    · obtain ⟨r, ar, er⟩ := receiveByte_took h (queryReceiveDepth c s).2
      have sr := sq.trans (receiveByte_same c (queryReceiveDepth c s).2)
      have e2 := emits_trans eq er
      split <;> rename_i hb
      · rw [hb] at ar
        obtain ⟨w, aw, ew⟩ := queryReceiveDepth_asked h (receiveByte c (queryReceiveDepth c s).2).2
        have sw := sr.trans (queryReceiveDepth_same c (receiveByte c (queryReceiveDepth c s).2).2)
        have e3 := emits_trans e2 ew
        have hi := (afterHeader_ended c t0 (receiveByte c (queryReceiveDepth c s).2).2).2.1.1
        refine .inr ⟨hi, ?_⟩
        unfold afterHeader
        simp only
        split <;> rename_i hk
        · exact ⟨.incomplete, _, .incomplete .none aq hn ar aw (by simpa [BitVec.lt_def] using hk), e3,
            attemptLeaves_of_same sw ⟨rfl, rfl, rfl, rfl, rfl, rfl⟩⟩
        · obtain ⟨hi, lo, cs, x, y, z, tx, ty, tz, ef, lf⟩ :=
            completeFrame_events h t0 (queryReceiveDepth c (receiveByte c (queryReceiveDepth c s).2).2).2
          exact ⟨_, _, .frame .none aq hn ar aw (by simpa [BitVec.lt_def] using hk) tx ty tz,
            by simpa using emits_trans e3 ef, attemptLeaves_of_same sw lf⟩
      · have hk : Skipped c (q ++ r) := by simpa using Skipped.more aq hn ar hb .none
        rcases ih (receiveByte c (queryReceiveDepth c s).2).2 with ⟨k, sk, h1, -, h2⟩ | ⟨k, e, es, h1, h2, h3⟩
        · have hne : q ≠ [] := by
            obtain ⟨_, rfl⟩ := aq
            simp
          exact .inl ⟨sr.stillScanning k, _, skipped_append hk h1, by simp [hne], emits_trans e2 h2⟩
        · exact .inr ⟨k, e, _, scanEvents_after_skipped hk h1, emits_trans e2 h2, attemptLeaves_of_same sr h3⟩

/-- Every step of a READDIST may test at least once. -/
theorem scanBudget_ne_zero (c : Byte) (s : State) : scanBudget c s ≠ 0 := by
  unfold scanBudget
  split <;> simp

/-- On a channel of 4 or more a scan ends at its first test, with no event (R180, R204). -/
theorem scanHeader_absent {c : Byte} (h : 4 ≤ c.toNat) (t0 : Clock) (fuel : Nat) (s : State) :
    scanHeader c t0 (fuel + 1) s = endAttempt t0 Config.stHeaderNotFound Config.resHeaderNotFound s := by
  simp [scanHeader, queryReceiveDepth, channel?_of_ge h]

end Sys2Proof.Machine
end

