-- ==== Sys2Proof/Laws/Step.lean ====
section
/-! SUPPORT. What one instruction and one step can do, said once: every instruction but READDIST and SETPROC is bus
activity of whole brackets, or none, and one reply. The invariants and the whole-machine rules follow from these cases. -/

namespace Sys2Proof.Machine

open Sys2Proof

/-! ## The capacity of the peripheral's queues never changes -/

theorem Peripheral.absorb_qcap (p : Peripheral) (env : Environment) (d : Nat) (m : Byte) :
    (p.absorb env d m).qcap = p.qcap := by
  unfold Peripheral.absorb Peripheral.effect
  split <;> simp

theorem xfer_qcap (m : Byte) (s : State) : (xfer m s).2.periph.qcap = s.periph.qcap :=
  Peripheral.absorb_qcap _ _ _ _

theorem sendAll_qcap (ms : List Byte) (s : State) : (sendAll ms s).periph.qcap = s.periph.qcap := by
  induction ms generalizing s with
  | nil => rfl
  | cons m rest ih => rw [sendAll_cons, ih, xfer_qcap]

theorem receiveAll_qcap (n : Nat) (s : State) : (receiveAll n s).2.periph.qcap = s.periph.qcap := by
  induction n generalizing s with
  | zero => rfl
  | succ n ih => exact (ih (xfer Config.fill s).2).trans (xfer_qcap _ _)

theorem selBus_qcap (s : State) : (selBus s).periph.qcap = s.periph.qcap :=
  (Peripheral.lineActivity_phase s.periph s.env s.draws).2

theorem deselBus_qcap (s : State) : (deselBus s).periph.qcap = s.periph.qcap := rfl

/-! ## Between two steps -/

/-- No bracket is open and no wait runs, at either end of the bus. -/
def Released (s : State) : Prop := s.sel = false ∧ s.bstate = .idle ∧ s.periph.phase = .off

/-- What an operation on the bus, or one that leaves it alone, does before its reply. -/
structure BusOp (s t : State) : Prop where
  frame : t = { s with
    sel := t.sel, bstate := t.bstate, periph := t.periph, draws := t.draws, transcript := t.transcript,
    settleT0 := t.settleT0, clock := t.clock }
  released : Released s → Released t
  whole : Whole s t
  qcap : t.periph.qcap = s.periph.qcap

theorem BusOp.refl (s : State) : BusOp s s := ⟨rfl, id, .refl s, rfl⟩

theorem BusOp.trans {s t u : State} (h : BusOp s t) (k : BusOp t u) : BusOp s u := by
  refine ⟨?_, fun r => k.released (h.released r), h.whole.trans k.whole, k.qcap.trans h.qcap⟩
  have h1 := h.frame
  have k1 := k.frame
  rw [h1] at k1
  exact k1

theorem Bracketed.busOp {s t : State} (h : Bracketed s t) (hp : t.periph.phase = .off) (w : Whole s t)
    (q : t.periph.qcap = s.periph.qcap) : BusOp s t := by
  unfold Bracketed at h
  refine ⟨?_, fun _ => ⟨?_, ?_, hp⟩, w, q⟩ <;> rw [h]

theorem wireQuery_qcap (opc : BitVec 4) (cc : Chan) (s : State) :
    (wireQuery opc cc s).2.periph.qcap = s.periph.qcap := by
  simp only [wireQuery]
  rw [deselBus_qcap, xfer_qcap, xfer_qcap, selBus_qcap]

theorem wireReceive_qcap (cc : Chan) (len : Byte) (s : State) :
    (wireReceive cc len s).2.periph.qcap = s.periph.qcap := by
  simp only [wireReceive]
  rw [deselBus_qcap, receiveAll_qcap, sendAll_qcap, selBus_qcap]

theorem wireTransmit_qcap (cc : Chan) (payload : List Byte) (s : State) :
    (wireTransmit cc payload s).periph.qcap = s.periph.qcap := by
  simp only [wireTransmit]
  rw [deselBus_qcap, sendAll_qcap, selBus_qcap]

theorem wireBaud_qcap (cc : Chan) (code : Byte) (s : State) : (wireBaud cc code s).periph.qcap = s.periph.qcap := by
  show (deselBus (sendAll [cmdByte 0x8#4 cc, code] (selBus s))).periph.qcap = _
  rw [deselBus_qcap, sendAll_qcap, selBus_qcap]

theorem wireQrd_busOp (cc : Chan) (s : State) : BusOp s (wireQuery 0x1#4 cc s).2 :=
  (wireQuery_bracketed _ _ s).busOp rfl (wireQrd_whole cc s) (wireQuery_qcap _ _ _)

theorem wireQtd_busOp (cc : Chan) (s : State) : BusOp s (wireQuery 0x3#4 cc s).2 :=
  (wireQuery_bracketed _ _ s).busOp rfl (wireQtd_whole cc s) (wireQuery_qcap _ _ _)

theorem wireReceive_busOp (cc : Chan) (len : Byte) (s : State) : BusOp s (wireReceive cc len s).2 :=
  (wireReceive_bracketed _ _ s).busOp rfl (wireReceive_whole cc len s) (wireReceive_qcap cc len s)

theorem wireTransmit_busOp (cc : Chan) (payload : List Byte) (s : State) (h : payload.length ≤ 255) :
    BusOp s (wireTransmit cc payload s) :=
  (wireTransmit_bracketed _ _ s).busOp rfl (wireTransmit_whole cc payload s h) (wireTransmit_qcap cc payload s)

theorem wireBaud_busOp (cc : Chan) (code : Byte) (s : State) (h : code.toNat < 10) : BusOp s (wireBaud cc code s) :=
  ⟨wireBaud_frame cc code s, fun _ => ⟨rfl, rfl, rfl⟩, wireBaud_whole cc code s h,
    wireBaud_qcap cc code s⟩

theorem queryReceiveDepth_busOp (c : Byte) (s : State) : BusOp s (queryReceiveDepth c s).2 := by
  unfold queryReceiveDepth
  split
  · exact wireQrd_busOp _ _
  · exact .refl s

theorem queryTransmitDepth_busOp (c : Byte) (s : State) : BusOp s (queryTransmitDepth c s).2 := by
  unfold queryTransmitDepth
  split
  · exact wireQtd_busOp _ _
  · exact .refl s

theorem receiveByte_busOp (c : Byte) (s : State) : BusOp s (receiveByte c s).2 := by
  unfold receiveByte
  split
  · exact wireReceive_busOp _ _ _
  · exact .refl s

theorem transmitByte_busOp (c v : Byte) (s : State) : BusOp s (transmitByte c v s) := by
  unfold transmitByte
  split
  · exact wireTransmit_busOp _ _ _ (by simp)
  · exact .refl s

theorem setBaudRate_busOp (c code : Byte) (s : State) : BusOp s (setBaudRate c code s) := by
  unfold setBaudRate
  split
  · split
    · exact wireBaud_busOp _ _ _ (by assumption)
    · exact .refl s
  · exact .refl s

/-! ## One instruction -/

/-- What an instruction does that is neither READDIST nor SETPROC: bus activity, host memory, one reply. -/
structure Served (s t : State) : Prop where
  frame : t = { s with
    sel := t.sel, bstate := t.bstate, periph := t.periph, draws := t.draws, transcript := t.transcript,
    settleT0 := t.settleT0, clock := t.clock, mem := t.mem, returned := t.returned }
  released : Released s → Released t
  whole : Whole s t
  qcap : t.periph.qcap = s.periph.qcap
  returns : ∃ r, Returns s t r
  canonical : Memory.wf s.mem = true → Memory.wf t.mem = true

theorem BusOp.served {s t : State} (h : BusOp s t) (r : Result) : Served s (t.reply r) := by
  have hf := h.frame
  refine ⟨?_, h.released, h.whole.then rfl, h.qcap, ⟨r, ?_⟩, ?_⟩
  · rw [hf]
    rfl
  · unfold Returns
    rw [hf]
    rfl
  · intro hw
    rw [State.reply_mem, hf]
    exact hw

/-- A receive into a host buffer: nothing but the reply on a channel of 4 or more, otherwise the bracket and the stores of its
bytes (R132). -/
theorem receiveBuffer_cases {c len : Byte} {dst : Ref} {s t : State} (h : receiveBuffer c len dst s = .next t) :
    t = s.reply .nothing ∨ ∃ cc, channel? c = some cc ∧
      t = ((wireReceive cc len s).2.setMem
        (writeBuffer (wireReceive cc len s).2.mem dst 0 (wireReceive cc len s).1)).reply .nothing := by
  unfold receiveBuffer at h
  split at h
  · cases h
    exact .inl rfl
  · split at h
    · cases h
      exact .inr ⟨_, by assumption, rfl⟩
    · cases h

theorem receiveBuffer_served {c len : Byte} {dst : Ref} {s t : State} (h : receiveBuffer c len dst s = .next t) :
    Served s t := by
  rcases receiveBuffer_cases h with rfl | ⟨cc, _, rfl⟩
  · exact (BusOp.refl s).served _
  · have hb := wireReceive_busOp cc len s
    have hf := hb.frame
    refine ⟨?_, hb.released, hb.whole.then rfl, hb.qcap, ⟨.nothing, ?_⟩, ?_⟩
    · rw [hf]
      rfl
    · unfold Returns
      rw [hf]
      rfl
    · intro hw
      refine writeBuffer_wf _ _ _ ?_
      rw [hf]
      exact hw

theorem transmitBuffer_served {c len : Byte} {src : Ref} {s t : State} (h : transmitBuffer c len src s = .next t) :
    Served s t ∧ t.mem = s.mem := by
  unfold transmitBuffer at h
  split at h
  · cases h
    exact ⟨(BusOp.refl s).served _, rfl⟩
  · split at h
    · cases h
      have hb := wireTransmit_busOp ‹Chan› (readBuffer s.mem src 0 len.toNat) s
        (by have := len.isLt; simp only [readBuffer_length]; omega)
      refine ⟨hb.served _, ?_⟩
      rw [State.reply_mem, hb.frame]
    · cases h

/-- An instruction that answers a next state is one of three things. -/
theorem exec_cases {i : Instr} {s t : State} (h : exec i s = .next t) :
    Served s t ∨ (∃ b, i = .setProc b ∧ t = (driveMode b (s.setMode b)).reply .nothing) ∨
      (i = .readDist ∧ ∃ c, viewChannel? s s.sessView = some c ∧ t = readDistance c s) := by
  have view : ∀ {k : Byte} {f : Byte → Ran}, onView k s f = .next t → ∃ c, f c = .next t := by
    intro k f h
    unfold onView at h
    split at h
    · exact ⟨_, h⟩
    · cases h
  cases i with
  | cmdQrd cc => cases h; exact .inl ((wireQrd_busOp cc s).served _)
  | cmdQtd cc => cases h; exact .inl ((wireQtd_busOp cc s).served _)
  | cmdRx cc len => cases h; exact .inl ((wireReceive_busOp cc len s).served _)
  | cmdTx cc payload =>
    simp only [exec, execCmdTx] at h
    split at h
    · cases h; exact .inl ((wireTransmit_busOp cc payload s (by assumption)).served _)
    · cases h
  | cmdBaud cc code =>
    simp only [exec, execCmdBaud] at h
    split at h
    · cases h; exact .inl ((wireBaud_busOp cc code s (by assumption)).served _)
    · cases h
  | qrd c => cases h; exact .inl ((queryReceiveDepth_busOp c s).served _)
  | qtd c => cases h; exact .inl ((queryTransmitDepth_busOp c s).served _)
  | rxb c => cases h; exact .inl ((receiveByte_busOp c s).served _)
  | rxn c len dst => exact .inl (receiveBuffer_served h)
  | txb c v => cases h; exact .inl ((transmitByte_busOp c v s).served _)
  | txn c len src => exact .inl (transmitBuffer_served h).1
  | setBaud c code => cases h; exact .inl ((setBaudRate_busOp c code s).served _)
  | avail k => obtain ⟨c, h⟩ := view h; cases h; exact .inl ((queryReceiveDepth_busOp c s).served _)
  | read k => obtain ⟨c, h⟩ := view h; cases h; exact .inl ((receiveByte_busOp c s).served _)
  | readn k len dst => obtain ⟨c, h⟩ := view h; exact .inl (receiveBuffer_served h)
  | write k v => obtain ⟨c, h⟩ := view h; cases h; exact .inl ((transmitByte_busOp c v s).served _)
  | writen k len src => obtain ⟨c, h⟩ := view h; exact .inl (transmitBuffer_served h).1
  | beginRate k rate => obtain ⟨c, h⟩ := view h; cases h; exact .inl ((setBaudRate_busOp c _ s).served _)
  | peek k => obtain ⟨c, h⟩ := view h; cases h; exact .inl ((BusOp.refl s).served _)
  | parse k => obtain ⟨c, h⟩ := view h; cases h; exact .inl ((BusOp.refl s).served _)
  | readDist =>
    refine .inr (.inr ⟨rfl, ?_⟩)
    simp only [exec, execReadDist] at h
    split at h
    · cases h; exact ⟨_, by assumption, rfl⟩
    · cases h
  | setProc b => cases h; exact .inr (.inl ⟨b, rfl, rfl⟩)
  | getDist => cases h; exact .inl ((BusOp.refl s).served _)
  | getLr => cases h; exact .inl ((BusOp.refl s).served _)
  | getLs => cases h; exact .inl ((BusOp.refl s).served _)
  | getStat => cases h; exact .inl ((BusOp.refl s).served _)
  | getRes => cases h; exact .inl ((BusOp.refl s).served _)
  | getMode => cases h; exact .inl ((BusOp.refl s).served _)

/-- Only the two receives into a host buffer may change host memory (R64). -/
theorem exec_mem {i : Instr} {s t : State} (h : exec i s = .next t)
    (hr : ∀ c len dst, i ≠ .rxn c len dst ∧ i ≠ .readn c len dst) : t.mem = s.mem := by
  have view : ∀ {k : Byte} {f : Byte → Ran}, onView k s f = .next t → ∃ c, f c = .next t := by
    intro k f h
    unfold onView at h
    split at h
    · exact ⟨_, h⟩
    · cases h
  have bus : ∀ {u : State} (r : Result), BusOp s u → (u.reply r).mem = s.mem := by
    intro u r hb
    rw [State.reply_mem, hb.frame]
  cases i with
  | cmdQrd cc => cases h; exact bus _ (wireQrd_busOp cc s)
  | cmdQtd cc => cases h; exact bus _ (wireQtd_busOp cc s)
  | cmdRx cc len => cases h; exact bus _ (wireReceive_busOp cc len s)
  | cmdTx cc payload =>
    simp only [exec, execCmdTx] at h
    split at h
    · cases h; exact bus _ (wireTransmit_busOp cc payload s (by assumption))
    · cases h
  | cmdBaud cc code =>
    simp only [exec, execCmdBaud] at h
    split at h
    · cases h; exact bus _ (wireBaud_busOp cc code s (by assumption))
    · cases h
  | qrd c => cases h; exact bus _ (queryReceiveDepth_busOp c s)
  | qtd c => cases h; exact bus _ (queryTransmitDepth_busOp c s)
  | rxb c => cases h; exact bus _ (receiveByte_busOp c s)
  | rxn c len dst => exact absurd rfl (hr c len dst).1
  | txb c v => cases h; exact bus _ (transmitByte_busOp c v s)
  | txn c len src => exact (transmitBuffer_served h).2
  | setBaud c code => cases h; exact bus _ (setBaudRate_busOp c code s)
  | avail k => obtain ⟨c, h⟩ := view h; cases h; exact bus _ (queryReceiveDepth_busOp c s)
  | read k => obtain ⟨c, h⟩ := view h; cases h; exact bus _ (receiveByte_busOp c s)
  | readn k len dst => exact absurd rfl (hr k len dst).2
  | write k v => obtain ⟨c, h⟩ := view h; cases h; exact bus _ (transmitByte_busOp c v s)
  | writen k len src => obtain ⟨c, h⟩ := view h; exact (transmitBuffer_served h).2
  | beginRate k rate => obtain ⟨c, h⟩ := view h; cases h; exact bus _ (setBaudRate_busOp c _ s)
  | peek k => obtain ⟨c, h⟩ := view h; cases h; rfl
  | parse k => obtain ⟨c, h⟩ := view h; cases h; rfl
  | readDist =>
    simp only [exec, execReadDist] at h
    split at h
    · cases h
      rename_i c _
      unfold readDistance
      simp only
      split
      · rfl
      · have ha := (attempt_outcome c (now s).1 (now s).2).1
        unfold AttemptFrame at ha
        rw [ha]
        rfl
    · cases h
  | setProc b => cases h; rfl
  | getDist => cases h; rfl
  | getLr => cases h; rfl
  | getLs => cases h; rfl
  | getStat => cases h; rfl
  | getRes => cases h; rfl
  | getMode => cases h; rfl

/-! ## An attempt -/

theorem completeFrame_released {c : Byte} {t0 : Clock} {s : State} (h : Released s) :
    Released (completeFrame c t0 s) := by
  have k := (((receiveByte_busOp c s).trans (receiveByte_busOp c _)).trans (receiveByte_busOp c _)).released h
  unfold completeFrame
  simp only
  split
  · exact k
  · exact k

theorem afterHeader_released {c : Byte} {t0 : Clock} {s : State} (h : Released s) : Released (afterHeader c t0 s) := by
  have k := (queryReceiveDepth_busOp c s).released h
  unfold afterHeader
  simp only
  split
  · exact k
  · exact completeFrame_released k

theorem scanHeader_released {c : Byte} {t0 : Clock} {fuel : Nat} {s : State} (h : Released s) :
    Released (scanHeader c t0 fuel s) := by
  induction fuel generalizing s with
  | zero => exact h
  | succ fuel ih =>
    have k := (queryReceiveDepth_busOp c s).released h
    have k2 := (receiveByte_busOp c (queryReceiveDepth c s).2).released k
    unfold scanHeader
    simp only
    split
    · exact k
    · split
      · exact afterHeader_released k2
      · exact ih k2

theorem attempt_released {c : Byte} {t0 : Clock} {s : State} (h : Released s) : Released (attempt c t0 s) := by
  have k := (queryReceiveDepth_busOp c s).released h
  unfold attempt
  simp only
  split
  · exact k
  · exact scanHeader_released k

theorem completeFrame_qcap (c : Byte) (t0 : Clock) (s : State) :
    (completeFrame c t0 s).periph.qcap = s.periph.qcap := by
  have k := (((receiveByte_busOp c s).trans (receiveByte_busOp c _)).trans (receiveByte_busOp c _)).qcap
  unfold completeFrame
  simp only
  split
  · exact k
  · exact k

theorem afterHeader_qcap (c : Byte) (t0 : Clock) (s : State) : (afterHeader c t0 s).periph.qcap = s.periph.qcap := by
  have k := (queryReceiveDepth_busOp c s).qcap
  unfold afterHeader
  simp only
  split
  · exact k
  · exact (completeFrame_qcap _ _ _).trans k

theorem scanHeader_qcap (c : Byte) (t0 : Clock) (fuel : Nat) (s : State) :
    (scanHeader c t0 fuel s).periph.qcap = s.periph.qcap := by
  induction fuel generalizing s with
  | zero => rfl
  | succ fuel ih =>
    have k := (queryReceiveDepth_busOp c s).qcap
    have k2 := (receiveByte_busOp c (queryReceiveDepth c s).2).qcap
    unfold scanHeader
    simp only
    split
    · exact k
    · split
      · exact (afterHeader_qcap _ _ _).trans (k2.trans k)
      · exact (ih _).trans (k2.trans k)

theorem attempt_qcap (c : Byte) (t0 : Clock) (s : State) : (attempt c t0 s).periph.qcap = s.periph.qcap := by
  have k := (queryReceiveDepth_busOp c s).qcap
  unfold attempt
  simp only
  split
  · exact k
  · exact (scanHeader_qcap _ _ _ _).trans k

/-! ## One step -/

/-- What the arbiter grants: some port's oldest request (R266). -/
theorem grantNext_eq {s s' : State} {r : Request} (h : grantNext s = some (r, s')) :
    ∃ p rest, s.ports[p]? = some (r :: rest) ∧
      s' = { s with ports := s.ports.set p rest, grant := p, draws := s.draws + 1 } := by
  unfold grantNext at h
  split at h
  · rename_i p _
    unfold takeRequest at h
    split at h
    · rename_i r' rest hr
      cases h
      exact ⟨p, rest, hr, rfl⟩
    · cases h
  · cases h

/-- A step that answers a next state is one of four things. -/
theorem step_cases {s t : State} (h : step s = .next t) :
    (s.bstate = .settle ∧ t = endSettle s) ∨
      (s.bstate = .idle ∧ ∃ t0 c, s.session = .scanning t0 ∧ viewChannel? s s.sessView = some c ∧
        t = scanHeader c t0 (scanBudget c s) s) ∨
      (s.bstate = .idle ∧ s.session = .idle ∧ grantNext s = none ∧ t = s) ∨
      (s.bstate = .idle ∧ s.session = .idle ∧ ∃ p ps i,
        exec i { s with ports := ps, grant := p, draws := s.draws + 1 } = .next t) := by
  unfold step at h
  split at h
  · cases h
  · cases h
    exact .inl ⟨by assumption, rfl⟩
  · rename_i hb
    split at h
    · unfold resumeScan at h
      split at h
      · cases h
        exact .inr (.inl ⟨hb, _, _, by assumption, by assumption, rfl⟩)
      · cases h
    · rename_i hs
      unfold serve at h
      split at h
      · cases h
        exact .inr (.inr (.inl ⟨hb, hs, by assumption, rfl⟩))
      · rename_i r s' hg
        split at h
        · rename_i i hi
          obtain ⟨p, rest, _, rfl⟩ := grantNext_eq hg
          exact .inr (.inr (.inr ⟨hb, hs, p, _, i, h⟩))
        · cases h

end Sys2Proof.Machine
end

