-- ==== Sys2Proof/Tests/Slice0.lean ====
section
/-! SUPPORT. Tests of the model's own: ill-formed terms refused, words written out from the spec's encodings, one-step vectors
of 95_test_vectors.md, and a witness for the hypotheses of every statement of Certificates/Slice0/Obligations.lean. -/

namespace Sys2Proof.Tests

open Sys2Proof Machine

/-! ## A bench: the reference peripheral and clock of 95_test_vectors.md section 0 -/

def line (rq tq : List Byte) : Channel := ⟨rq, tq, 3⟩

/-- The peripheral with these bytes queued for channels 0 to 3 and nothing to send. -/
def device (q0 q1 q2 q3 : List Byte) : Peripheral := ⟨line q0 [], line q1 [], line q2 [], line q3 [], .off, 300⟩

def benchSetup (p : Peripheral) (t : Clock) : Setup := ⟨[0, 1, 2, 3], 2, t, p, [], [], .reference⟩

/-- The state after reset of a block with the standard configuration on the bench, at clock `t`. -/
def bench (p : Peripheral) (t : Clock) : State :=
  { State.created (benchSetup p t) with settleT0 := 0, mode := false, modeLine := false }

/-- The bench with one host buffer at 0x100 holding `bs`. -/
def buffered (bs : List Byte) (p : Peripheral) (t : Clock) : State :=
  { bench p t with mem := writeBuffer [] 0x100 0 bs, buffers := [⟨0x100, bs.length⟩] }

/-- The bench with one request waiting on port 0. -/
def asked (l : Layer) (bs : List Byte) (p : Peripheral) (t : Clock) : State := { bench p t with ports := [[⟨l, bs⟩]] }

/-- What a run of one step left of the state, where it ended in a next state. -/
def left {α : Type} (f : State → α) : Ran → Option α
  | .next t => some (f t)
  | .fault _ => none
  | .refused _ => none

/-- The transcript and the results of one step. -/
def seen (o : Ran) : Option (List Event × List Result) := left (fun t => (t.transcript, t.returned.map Reply.result)) o

/-- A row of 95_test_vectors.md section 2.4, after its call. -/
structure SensorRow where
  returns : List Result
  status : Code
  result : Code
  distance : Half
  lastSuccessMs : Clock
  lastReadMs : Clock
  rq : List Byte
  brackets : Nat
  deriving DecidableEq, Repr

def sensorRow (o : Ran) : Option SensorRow :=
  left (fun t => ⟨t.returned.map Reply.result, t.status, t.result, t.distance, t.lastSuccessMs, t.lastReadMs,
    (t.periph.get 2).rq, (t.transcript.filter (fun e => decide (e = .sel))).length⟩) o

/-! ## Ill-formed terms -/

theorem test_payload_of_256_bytes_is_ill_formed : (Instr.cmdTx 0 (List.replicate 256 0)).wellFormed = false := by decide +kernel
theorem test_wire_baud_code_10_is_ill_formed : (Instr.cmdBaud 0 10).wellFormed = false := by decide

/-! ## Words written out from the encodings of 30_encoding.md (R90, R93, R101, R103) -/

theorem test_decode_cmdQrd : decode .wire [0x12, 0x00] = .ok (.cmdQrd 2, []) := by decide
theorem test_decode_cmdRx : decode .wire [0x23, 0x02, 0x00, 0x00] = .ok (.cmdRx 3 2, []) := by decide
theorem test_decode_cmdQtd : decode .wire [0x31, 0x00] = .ok (.cmdQtd 1, []) := by decide
theorem test_decode_cmdTx : decode .wire [0x43, 0x02, 0x48, 0x69] = .ok (.cmdTx 3 [0x48, 0x69], []) := by decide
theorem test_decode_cmdBaud : decode .wire [0x81, 0x07] = .ok (.cmdBaud 1 7, []) := by decide
theorem test_decode_qrd : decode .host [0x01, 0x05] = .ok (.qrd 5, []) := by decide
theorem test_decode_qtd : decode .host [0x02, 0x02] = .ok (.qtd 2, []) := by decide
theorem test_decode_rxb : decode .host [0x03, 0x01] = .ok (.rxb 1, []) := by decide
theorem test_decode_rxn : decode .host [0x04, 0x00, 0x04, 0x00, 0x00, 0x01, 0x00] = .ok (.rxn 0 4 0x100, []) := by decide
theorem test_decode_txb : decode .host [0x05, 0x02, 0x48] = .ok (.txb 2 0x48, []) := by decide
theorem test_decode_txn : decode .host [0x06, 0x03, 0x04, 0x12, 0x34, 0x56, 0x78] = .ok (.txn 3 4 0x12345678, []) := by decide
theorem test_decode_setBaud : decode .host [0x07, 0x00, 0x0C] = .ok (.setBaud 0 12, []) := by decide
theorem test_decode_avail : decode .host [0x10, 0x02] = .ok (.avail 2, []) := by decide
theorem test_decode_read : decode .host [0x11, 0x02] = .ok (.read 2, []) := by decide
theorem test_decode_readn : decode .host [0x12, 0x00, 0x02, 0x00, 0x00, 0x01, 0x00] = .ok (.readn 0 2 0x100, []) := by decide
theorem test_decode_write : decode .host [0x13, 0x01, 0x0A] = .ok (.write 1 0x0A, []) := by decide
theorem test_decode_writen : decode .host [0x14, 0x03, 0x01, 0x00, 0x00, 0x01, 0x00] = .ok (.writen 3 1 0x100, []) := by decide
theorem test_decode_begin : decode .host [0x15, 0x00, 0x00, 0x00, 0x25, 0x80] = .ok (.beginRate 0 9600, []) := by decide
theorem test_decode_peek : decode .host [0x16, 0x02] = .ok (.peek 2, []) := by decide
theorem test_decode_parse : decode .host [0x17, 0x00] = .ok (.parse 0, []) := by decide
theorem test_decode_readDist : decode .host [0x20] = .ok (.readDist, []) := by decide
theorem test_decode_setProc : decode .host [0x21, 0x01] = .ok (.setProc true, []) := by decide
theorem test_decode_getDist : decode .host [0x22] = .ok (.getDist, []) := by decide
theorem test_decode_getLr : decode .host [0x23] = .ok (.getLr, []) := by decide
theorem test_decode_getLs : decode .host [0x24] = .ok (.getLs, []) := by decide
theorem test_decode_getStat : decode .host [0x25] = .ok (.getStat, []) := by decide
theorem test_decode_getRes : decode .host [0x26] = .ok (.getRes, []) := by decide
theorem test_decode_getMode : decode .host [0x27] = .ok (.getMode, []) := by decide

/-- 95_test_vectors.md section 2.1. -/
theorem test_command_decoder :
    [0x00, 0x10, 0x13, 0x14, 0x1C, 0x22, 0x31, 0x38, 0x43, 0x50, 0x70, 0x80, 0x83, 0x84, 0x90, 0xFF].map decodeCmd =
      [.invalid, .qrd 0, .qrd 3, .invalid, .invalid, .rx 2, .qtd 1, .invalid, .tx 3, .invalid, .invalid, .baud 0, .baud 3,
        .invalid, .invalid, .invalid] := by decide

/-- 95_test_vectors.md section 2.6: these host codes are refused. -/
theorem test_host_codes_refused :
    ([0x00, 0x08, 0x0F, 0x18, 0x1F, 0x28, 0x80, 0xFF] : List Byte).all
      (fun op => decide (decode .host [op, 0, 0, 0, 0, 0, 0] = .error (.unassignedOp op))) = true := by decide

theorem test_decode_short_operands_refused : decode .host [0x04, 0x00, 0x04, 0x00] = .error .truncated := by decide
theorem test_decode_mode_operand_2_refused : decode .host [0x21, 0x02] = .error (.modeOperand 2) := by decide
theorem test_decode_wire_baud_10_refused : decode .wire [0x80, 0x0A] = .error (.reservedBaudCode 10) := by decide
theorem test_decode_table_word_of_a_shared_byte : decodeTableWord 8 0x10 = some (.avail 0) := by decide
theorem test_decode_table_word_of_a_wire_byte : decodeTableWord 8 0x83 = some (.cmdBaud 3 0) := by decide

/-! ## One step each: the vectors of 95_test_vectors.md -/

/-- The queues of the vectors: RQ[0], RQ[1] and RQ[2] hold bytes, RQ[3] is empty. -/
def queues : Peripheral := device [0x10, 0x20, 0x30] [0x41] [0xFF, 0x00] []

theorem test_cmdQrd :
    seen (exec (.cmdQrd 2) (bench queues 0)) =
      some ([.sel, .xfer 0x12 0x00, .xfer 0x00 0x02, .desel], [.byte 0x02]) := by decide
/-- The fourth byte lies beyond the queue (P3 line 1). -/
theorem test_cmdRx :
    seen (exec (.cmdRx 0 4) (bench queues 0)) =
      some ([.sel, .xfer 0x20 0x00, .xfer 0x04 0x00, .xfer 0x00 0x10, .xfer 0x00 0x20, .xfer 0x00 0x30,
        .xfer 0x00 0x00, .desel], [.bytes [0x10, 0x20, 0x30, 0x00]]) := by decide
theorem test_cmdQtd :
    seen (exec (.cmdQtd 3) (bench queues 0)) =
      some ([.sel, .xfer 0x33 0x00, .xfer 0x00 0x00, .desel], [.byte 0x00]) := by decide
theorem test_cmdTx :
    left (fun t => (t.periph.get 3).tq) (exec (.cmdTx 3 [0x48, 0x69]) (bench queues 0)) =
      some [0x48, 0x69] := by decide
/-- V-B14. -/
theorem test_cmdBaud :
    left (fun t => ((t.periph.get 2).baud, t.clock)) (exec (.cmdBaud 2 8) (bench queues 500)) =
      some (8, 520) := by decide
theorem test_qrd :
    seen (exec (.qrd 2) (bench queues 0)) =
      some ([.sel, .xfer 0x12 0x00, .xfer 0x00 0x02, .desel], [.byte 0x02]) := by decide
/-- S3. -/
theorem test_qrd_absent :
    seen (exec (.qrd 4) (bench queues 0)) =
      some ([], [.byte 0x00]) := by decide
theorem test_qtd :
    seen (exec (.qtd 3) (bench queues 0)) =
      some ([.sel, .xfer 0x33 0x00, .xfer 0x00 0x00, .desel], [.byte 0x00]) := by decide
/-- R131, example. -/
theorem test_rxb :
    seen (exec (.rxb 1) (bench queues 0)) =
      some ([.sel, .xfer 0x21 0x00, .xfer 0x01 0x00, .xfer 0x00 0x41, .desel], [.byte 0x41]) := by decide
theorem test_rxb_removes :
    left (fun t => (t.periph.get 0).rq) (exec (.rxb 0) (bench queues 0)) =
      some [0x20, 0x30] := by decide
theorem test_rxn :
    left (fun t => readBuffer t.mem 0x100 0 4) (exec (.rxn 0 3 0x100) (buffered [0xAA, 0xAA, 0xAA, 0xAA] queues 0)) =
      some [0x10, 0x20, 0x30, 0xAA] := by decide
/-- P3 line 8. -/
theorem test_rxn_length_0 :
    seen (exec (.rxn 1 0 0x100) (buffered [0xAA] queues 0)) =
      some ([.sel, .xfer 0x21 0x00, .xfer 0x00 0x00, .desel], [.nothing]) := by decide
/-- R133, example. -/
theorem test_txb :
    seen (exec (.txb 0 0x41) (bench queues 0)) =
      some ([.sel, .xfer 0x40 0x00, .xfer 0x01 0x00, .xfer 0x41 0x00, .desel], [.nothing]) := by decide
/-- V-B11. -/
theorem test_txn :
    seen (exec (.txn 3 2 0x100) (buffered [0x48, 0x69] queues 0)) =
      some ([.sel, .xfer 0x43 0x00, .xfer 0x02 0x00, .xfer 0x48 0x00, .xfer 0x69 0x00, .desel], [.nothing]) := by decide
/-- R64. -/
theorem test_txn_short_buffer_refused :
    left (fun _ => 0) (exec (.txn 3 3 0x100) (buffered [0x48, 0x69] queues 0)) =
      none := by decide
/-- V-B13. -/
theorem test_setBaud :
    seen (exec (.setBaud 0 7) (bench queues 500)) =
      some ([.sel, .xfer 0x80 0x00, .xfer 0x07 0x00, .desel, .wait 20], [.nothing]) := by decide
/-- V-B16. -/
theorem test_setBaud_reserved_code :
    seen (exec (.setBaud 0 10) (bench queues 500)) =
      some ([], [.nothing]) := by decide
/-- V-V1. -/
theorem test_avail :
    seen (exec (.avail 2) (bench queues 0)) =
      some ([.sel, .xfer 0x12 0x00, .xfer 0x00 0x02, .desel], [.byte 0x02]) := by decide
/-- V-V11. -/
theorem test_avail_no_such_view :
    left (fun _ => 0) (exec (.avail 4) (bench queues 0)) =
      none := by decide
/-- V-V2. -/
theorem test_read :
    seen (exec (.read 2) (bench queues 0)) =
      some ([.sel, .xfer 0x22 0x00, .xfer 0x01 0x00, .xfer 0x00 0xFF, .desel], [.byte 0xFF]) := by decide
/-- V-V3. -/
theorem test_readn :
    left (fun t => readBuffer t.mem 0x100 0 2) (exec (.readn 0 2 0x100) (buffered [0xAA, 0xAA] queues 0)) =
      some [0x10, 0x20] := by decide
/-- V-V4. -/
theorem test_write :
    left (fun t => (t.periph.get 1).tq) (exec (.write 1 0x0A) (bench queues 0)) =
      some [0x0A] := by decide
/-- V-V5. -/
theorem test_writen :
    seen (exec (.writen 3 1 0x100) (buffered [0x55] queues 0)) =
      some ([.sel, .xfer 0x43 0x00, .xfer 0x01 0x00, .xfer 0x55 0x00, .desel], [.nothing]) := by decide
/-- V-V6. -/
theorem test_begin :
    seen (exec (.beginRate 0 115200) (bench queues 0)) =
      some ([.sel, .xfer 0x80 0x00, .xfer 0x07 0x00, .desel, .wait 20], [.nothing]) := by decide
/-- V-V7. -/
theorem test_begin_unknown_rate :
    left (fun t => (t.periph.get 1).baud) (exec (.beginRate 1 9601) (bench queues 0)) =
      some 3 := by decide
/-- V-V8. -/
theorem test_peek :
    seen (exec (.peek 2) (bench queues 0)) =
      some ([], [.half 0xFFFF]) := by decide
/-- V-V9. -/
theorem test_parse :
    seen (exec (.parse 0) (bench queues 0)) =
      some ([], [.half 0xFFFF]) := by decide
/-- 95_test_vectors.md section 2.3. -/
theorem test_rate2code :
    ([0, 300, 1200, 2400, 4800, 9599, 9600, 14400, 19200, 38400, 57600, 115200, 115201, 230400, 4294967295] : List Rate).map
      rate2code =
      [3, 3, 0, 1, 2, 3, 3, 3, 4, 5, 6, 7, 3, 3, 3] := by decide

/-- Rows V-S2 to V-S17 of 95_test_vectors.md section 2.4: READDIST on channel 2 at the row's clock. -/
def readDistRow (rq : List Byte) (t : Clock) : Option SensorRow :=
  sensorRow (exec .readDist (bench (device [] [] rq []) t))

/-- Rows V-S2, V-S5, V-S6, V-S8, V-S9, V-S16 of section 2.4, and V-W1 (the elapsed time wraps). -/
theorem test_readDist_failures :
    readDistRow [0xFF, 0x00, 0x64, 0x63] 99 = some ⟨[.code 0], 0, 0, 0, 0, 0, [0xFF, 0x00, 0x64, 0x63], 0⟩ ∧
    readDistRow [0xFF, 0x00, 0x64] 1000 = some ⟨[.code 4], 2, 4, 0, 0, 1000, [0xFF, 0x00, 0x64], 1⟩ ∧
    readDistRow [0x01, 0x02, 0x03, 0x04] 1000 = some ⟨[.code 3], 3, 3, 0, 0, 1000, [], 10⟩ ∧
    readDistRow [0xAA, 0xBB, 0xCC, 0xFF, 0x00] 1000 = some ⟨[.code 4], 4, 4, 0, 0, 1000, [0x00], 10⟩ ∧
    readDistRow [0xFF, 0x00, 0x64, 0x64] 1000 = some ⟨[.code 2], 1, 2, 0, 0, 1000, [], 7⟩ ∧
    readDistRow [0xFF, 0xFF, 0x00, 0x64, 0x63] 1000 = some ⟨[.code 2], 1, 2, 0, 0, 1000, [0x63], 7⟩ ∧
    seen (exec .readDist { bench queues 0x10 with lastReadMs := 0xFFFFFFF0, result := 1 }) = some ([], [.code 1]) := by decide
/-- Rows V-S3, V-S11, V-S14, V-S17 of section 2.4. -/
theorem test_readDist_successes :
    readDistRow [0xFF, 0x00, 0x64, 0x63] 100 = some ⟨[.code 1], 1, 1, 100, 100, 100, [], 7⟩ ∧
    readDistRow [0xFF, 0x00, 0x1D, 0x1C] 1000 = some ⟨[.code 1], 1, 1, 30, 1000, 1000, [], 7⟩ ∧
    readDistRow [0xFF, 0xFF, 0xFF, 0xFD] 1000 = some ⟨[.code 1], 1, 1, 65535, 1000, 1000, [], 7⟩ ∧
    readDistRow [0xFF, 0x00, 0x64, 0x63, 0xFF, 0x00, 0x65, 0x64] 1000 = some ⟨[.code 1], 1, 1, 100, 1000, 1000, [0xFF, 0x00, 0x65, 0x64], 7⟩ := by decide
/-- V-M2. -/
theorem test_setProc :
    left (fun t => (t.transcript, t.mode, t.modeLine)) (exec (.setProc true) (bench queues 0)) =
      some ([.mode true], true, true) := by decide

/-- A state after row V-S9. -/
def afterMismatch : State := { bench queues 1000 with status := 1, result := 2, lastReadMs := 1000, mode := true, modeLine := true }

theorem test_getDist :
    seen (exec .getDist afterMismatch) =
      some ([], [.half 0]) := by decide
theorem test_getLr :
    seen (exec .getLr afterMismatch) =
      some ([], [.stamp 1000]) := by decide
theorem test_getLs :
    seen (exec .getLs afterMismatch) =
      some ([], [.stamp 0]) := by decide
theorem test_getStat :
    seen (exec .getStat afterMismatch) =
      some ([], [.code 1]) := by decide
theorem test_getRes :
    seen (exec .getRes afterMismatch) =
      some ([], [.code 2]) := by decide
theorem test_getMode :
    seen (exec .getMode afterMismatch) =
      some ([], [.bit true]) := by decide

/-- A step of a request: `QRD 2` on the bench (R100, R129). -/
theorem test_step_runs_a_request :
    seen (step (asked .host [0x01, 0x02] queues 0)) =
      some ([.sel, .xfer 0x12 0x00, .xfer 0x00 0x02, .desel], [.byte 0x02]) := by decide

/-- A host code that is not assigned is refused (R102). -/
theorem test_step_refuses_an_unassigned_code : left (fun _ => 0) (step (asked .host [0x08] queues 0)) = none := by
  decide

/-- Host memory keeps its canonical form: writing 0x00 removes the entry. -/
theorem test_memory_write_of_zero_removes_the_entry : (Memory.write [(1, 0xAA), (2, 0xBB)] 1 0x00) = [(2, 0xBB)] := by decide
theorem test_memory_reset_is_canonical : Memory.wf State.reset.mem = true := by decide

/-! ## Witnesses: states and operands that meet the hypotheses of each statement -/

/-- A state with a wait in progress, begun at 500. -/
def waiting : State := { bench queues 505 with bstate := .settle, settleT0 := 500, ports := [[⟨.host, [0x11, 0x00]⟩]] }

/-- A state with a header scan in progress. -/
def scanning : State := { bench queues 1000 with session := .scanning 1000, ports := [[⟨.host, [0x11, 0x00]⟩]] }

/-- A state with an open bracket. -/
def openBracket : State := { bench queues 0 with sel := true, bstate := .bracket }

/-- A block whose view 1 is on channel 7 and whose session reads view 1 (V-V10, R221). -/
def absentView : State := { bench queues 1000 with viewChan := [0, 7], sessView := 1 }

/-- A frame behind one byte without a header, and one byte after it. -/
def framed (cs : Byte) : State := bench (device [] [] [0xAA, 0xFF, 0x00, 0x64, cs, 0x55] []) 1000

theorem witness_DecodeOfEncode :
    (Instr.cmdTx 3 (List.replicate 255 0xA5)).wellFormed = true ∧ (Instr.cmdBaud 1 9).wellFormed = true ∧
      (Instr.rxn 255 255 0xFFFFFFFF).wellFormed = true := by decide +kernel
theorem witness_DecodeAcceptsOnlyEncodings :
    decode .wire [0x21, 0x01, 0x00, 0x07] = .ok (.cmdRx 1 1, [0x07]) ∧ decode .host [0x27, 0x01] = .ok (.getMode, [0x01]) := by decide
theorem witness_CommandByteFields :
    (3#8).toNat < 4 ∧ 4 ≤ (4#8).toNat := by decide
theorem witness_HostCodeRefusals :
    0x08#8 ∉ ([0x01, 0x02, 0x03, 0x04, 0x05, 0x06, 0x07, 0x10, 0x11, 0x12, 0x13, 0x14, 0x15, 0x16, 0x17,
      0x20, 0x21, 0x22, 0x23, 0x24, 0x25, 0x26, 0x27] : List Byte) ∧
    (asked .host [0x08] queues 0).bstate = .idle ∧ (asked .host [0x08] queues 0).session = .idle ∧
    grantNext (asked .host [0x08] queues 0) =
      some (⟨.host, [0x08]⟩, { bench queues 0 with ports := [[]], grant := 0, draws := 1 }) ∧
    (bench queues 0).viewChan.length ≤ (4#8).toNat := by decide
theorem witness_StepRunsGrantedInstruction :
    (asked .host [0x01, 0x02] queues 0).bstate = .idle ∧ (asked .host [0x01, 0x02] queues 0).session = .idle ∧
    grantNext (asked .host [0x01, 0x02] queues 0) =
      some (⟨.host, [0x01, 0x02]⟩, { bench queues 0 with ports := [[]], grant := 0, draws := 1 }) ∧
    left (fun _ => 0) (match decodeRequest ⟨.host, [0x01, 0x02]⟩ with | .ok _ => .next (bench queues 0) | .error e => .refused e) =
      some 0 := by decide
theorem witness_GrantTakesAnOldestRequest :
    (∃ r ∈ grantNext (asked .host [0x20] queues 0), r.1 = ⟨.host, [0x20]⟩) ∧ ∃ q ∈ (asked .host [0x20] queues 0).ports, q ≠ [] := by decide
theorem witness_BusyStepGrantsNothing :
    waiting.bstate ≠ .idle ∧ left State.ports (step waiting) = some waiting.ports ∧
      scanning.session ≠ .idle ∧ left State.ports (step scanning) = some scanning.ports := by decide
theorem witness_StepWaitsForRequest :
    (bench queues 0).bstate = .idle ∧ (bench queues 0).session = .idle ∧ ∀ q ∈ (bench queues 0).ports, q = [] := by decide
theorem witness_SettleEndsTwentyMsLater :
    waiting.bstate = .settle ∧ left State.clock (step waiting) = some 520 := by decide
theorem witness_OpenBracketHasNoStep :
    openBracket.bstate = .bracket := by decide
theorem witness_FirstReadDistIsThrottled :
    (bench queues 99).viewChan[(bench queues 99).sessView.toNat]? = some 2 ∧
      (bench queues 99).lastReadMs = 0 ∧ (bench queues 99).result = Config.resNone ∧ (now (bench queues 99)).1.toNat < 100 := by decide
theorem witness_WireTransmitAppendsPayload :
    (List.replicate 255 0xA5#8).length ≤ 255 ∧
      TxRoom (bench queues 0) 3 (List.replicate 255 0xA5#8).length := 
  ⟨by decide +kernel, (by decide +kernel : (channelAtSelect (bench queues 0) 3).tq.length +
    (List.replicate 255 0xA5#8).length ≤ (bench queues 0).periph.qcap)⟩
theorem witness_WireBaudWritesBaud :
    (9#8).toNat < 10 ∧ left (fun t => (t.periph.get 3).baud) (exec (.cmdBaud 3 9) (bench queues 0)) = some 9 := by decide
theorem witness_IllFormedBracketsRefused :
    255 < (List.replicate 256 0#8).length ∧ 10 ≤ (10#8).toNat := by decide +kernel
/-- A peripheral whose transmit queue 0 is full. -/
def fullDevice : Peripheral := { queues with c0 := line [0x10] [0x01, 0x02], qcap := 2 }

theorem witness_ReferencePeripheralAnswers :
    (bench fullDevice 0).env = .reference ∧ channel? 0 = some 0 ∧
      (bench fullDevice 0).periph.qcap ≤ ((bench fullDevice 0).periph.get 0).tq.length := by decide
/-- For QrdCompletes, QtdCompletes, RxbCompletes, TxbCompletes, SetBaudCompletes and AbsentChannelIsNoOp. -/
theorem witness_BridgeOperations :
    (3#8).toNat < 4 ∧ 4 ≤ (4#8).toNat ∧ (9#8).toNat < 10 ∧ 10 ≤ (10#8).toNat ∧
      (channelAtSelect (bench queues 0) ((1#8).extractLsb' 0 2)).rq = 0x41 :: [] ∧
      TxRoom (bench queues 0) ((3#8).extractLsb' 0 2) 1 := 
  ⟨by decide, by decide, by decide, by decide, by decide,
    (by decide : (channelAtSelect (bench queues 0) ((3#8).extractLsb' 0 2)).tq.length + 1 ≤ (bench queues 0).periph.qcap)⟩
theorem witness_RxnCompletes :
    (3#8).toNat < 4 ∧ bufferHolds (buffered [0xAA, 0xAA] queues 0) 0x100 2 = true ∧ 1 < (2#8).toNat ∧
      ∀ k, k < (2#8).toNat → 0x102 ≠ bufferAddr 0x100 k := by decide
theorem witness_TxnCompletes :
    (3#8).toNat < 4 ∧ bufferHolds (buffered [0x48, 0x69] queues 0) 0x100 2 = true ∧
      TxRoom (buffered [0x48, 0x69] queues 0) ((3#8).extractLsb' 0 2) (2#8).toNat := 
  ⟨by decide, by decide,
    (by decide : (channelAtSelect (buffered [0x48, 0x69] queues 0) ((3#8).extractLsb' 0 2)).tq.length + (2#8).toNat ≤
      (buffered [0x48, 0x69] queues 0).periph.qcap)⟩
theorem witness_ShortBufferRefused :
    (0#8).toNat < 4 ∧ bufferSize (buffered [0x48, 0x69] queues 0) 0x100 < (3#8).toNat := by decide
/-- For ViewOperationsAreBridgeOperations, ViewByteOperationsComplete, ViewBufferOperationsComplete and
PeekAndParseAnswerNotAvailable. -/
theorem witness_ViewOperations :
    (bench queues 0).viewChan[(3#8).toNat]? = some 3 ∧ (3#8).toNat < 4 ∧ (3#8).toNat < (bench queues 0).viewChan.length ∧
      (bench queues 0).viewChan.length ≤ (4#8).toNat ∧
      (buffered [0xAA, 0xAA] queues 0).viewChan[(3#8).toNat]? = some 3 ∧
      bufferHolds (buffered [0xAA, 0xAA] queues 0) 0x100 2 = true := by decide
theorem witness_AbsentViewIsNoOp :
    absentView.viewChan[(1#8).toNat]? = some 7 ∧ 4 ≤ (7#8).toNat := by decide
theorem witness_RateToCodeTable :
    14400#32 ∉ ([1200, 2400, 4800, 9600, 19200, 38400, 57600, 115200] : List Rate) ∧ (7 : Fin 10).val < 8 := by decide
/-- For ThrottleRule (99 and 100 ms) and ReadDistOutcomes. -/
theorem witness_ThrottleRule :
    (bench queues 99).viewChan[(bench queues 99).sessView.toNat]? = some 2 ∧
      (elapsed (now (bench queues 99)).1 (bench queues 99).lastReadMs).toNat = 99 ∧
      (bench queues 100).viewChan[(bench queues 100).sessView.toNat]? = some 2 ∧ (2#8).toNat < 4 ∧
      (elapsed (now (bench queues 100)).1 (bench queues 100).lastReadMs).toNat = 100 := by decide
theorem witness_FrameTooShort :
    (bench queues 100).viewChan[(bench queues 100).sessView.toNat]? = some 2 ∧ (2#8).toNat < 4 ∧
      100 ≤ (elapsed (now (bench queues 100)).1 (bench queues 100).lastReadMs).toNat ∧
      (queryReceiveDepth 2 (now (bench queues 100)).2).1.toNat < 4 ∧
      (framed 0x63).viewChan[(framed 0x63).sessView.toNat]? = some 2 ∧
      100 ≤ (elapsed (now (framed 0x63)).1 (framed 0x63).lastReadMs).toNat ∧
      4 ≤ (queryReceiveDepth 2 (now (framed 0x63)).2).1.toNat := by decide
theorem witness_AbsentSessionChannel :
    absentView.viewChan[absentView.sessView.toNat]? = some 7 ∧ 4 ≤ (7#8).toNat ∧
      100 ≤ (elapsed (now absentView).1 absentView.lastReadMs).toNat := by decide
/-- The attempt ends in READDIST's own step; a READDIST in progress ends in a later one. -/
theorem witness_AttemptFollowsItsTranscript :
    (framed 0x63).viewChan[(framed 0x63).sessView.toNat]? = some 2 ∧ (2#8).toNat < 4 ∧
      100 ≤ (elapsed (now (framed 0x63)).1 (framed 0x63).lastReadMs).toNat ∧
      (∃ u, exec .readDist (framed 0x63) = .next u ∧ Resumed u u ∧ u.session = .idle) ∧
      (∃ t, Resumed scanning t ∧ t.session = .idle ∧ t.mode = scanning.mode) :=
  ⟨by decide, by decide, by decide, ⟨_, rfl, .start, by decide⟩, ⟨_, .step .start rfl rfl, by decide, by decide⟩⟩
theorem witness_ScanContinues :
    scanning.bstate = .idle ∧ scanning.session = .scanning 1000 ∧
      scanning.viewChan[scanning.sessView.toNat]? = some 2 ∧ (2#8).toNat < 4 ∧
      { absentView with session := .scanning 1000 }.bstate = .idle ∧
      { absentView with session := .scanning 1000 }.session = .scanning 1000 ∧
      { absentView with session := .scanning 1000 }.viewChan[absentView.sessView.toNat]? = some 7 ∧ 4 ≤ (7#8).toNat := by decide
/-- For ReferenceReadDistEnds and ReferenceFrameDecodes. -/
theorem witness_ReferenceReadDist :
    (framed 0x63).env = .reference ∧ (framed 0x63).session = .idle ∧
      (framed 0x63).viewChan[(framed 0x63).sessView.toNat]? = some 2 ∧ channel? 2 = some 2 ∧
      100 ≤ (elapsed (framed 0x63).clock (framed 0x63).lastReadMs).toNat ∧
      ((framed 0x63).periph.get 2).rq = [0xAA] ++ Config.header :: 0x00 :: 0x64 :: frameChecksum 0x00 0x64 :: [0x55] ∧
      Config.header ∉ ([0xAA] : List Byte) := by decide
theorem witness_ReferenceChecksumMismatch :
    (framed 0x64).env = .reference ∧ (framed 0x64).viewChan[(framed 0x64).sessView.toNat]? = some 2 ∧
      channel? 2 = some 2 ∧ 100 ≤ (elapsed (framed 0x64).clock (framed 0x64).lastReadMs).toNat ∧
      ((framed 0x64).periph.get 2).rq = [0xAA] ++ Config.header :: 0x00 :: 0x64 :: 0x64 :: [0x55] ∧
      Config.header ∉ ([0xAA] : List Byte) ∧ 0x64 ≠ frameChecksum 0x00 0x64 := by decide
/-- Four bytes without a header (V-S6); a header with one byte behind it (V-S8). -/
def headerless : State := bench (device [] [] [0x01, 0x02, 0x03, 0x04] []) 1000
def lostFrame : State := bench (device [] [] [0xAA, 0xBB, 0xFF, 0x00] []) 1000

theorem witness_ReferenceScanFailures :
    headerless.env = .reference ∧ headerless.viewChan[headerless.sessView.toNat]? = some 2 ∧ channel? 2 = some 2 ∧
      100 ≤ (elapsed headerless.clock headerless.lastReadMs).toNat ∧
      (headerless.periph.get 2).rq = [0x01, 0x02, 0x03, 0x04] ∧ Config.header ∉ ([0x01, 0x02, 0x03, 0x04] : List Byte) ∧
      lostFrame.env = .reference ∧ lostFrame.viewChan[lostFrame.sessView.toNat]? = some 2 ∧
      100 ≤ (elapsed lostFrame.clock lostFrame.lastReadMs).toNat ∧
      (lostFrame.periph.get 2).rq = [0xAA, 0xBB] ++ Config.header :: [0x00] ∧
      Config.header ∉ ([0xAA, 0xBB] : List Byte) := by decide
/-- A whole frame at the head of the stream (S9). -/
def whole : State := bench (device [] [] [0xFF, 0x00, 0x64, 0x63] []) 1000

theorem witness_WholeFrameCostsSevenBrackets :
    whole.env = .reference ∧ whole.viewChan[whole.sessView.toNat]? = some 2 ∧ channel? 2 = some 2 ∧
      100 ≤ (elapsed whole.clock whole.lastReadMs).toNat ∧
      (whole.periph.get 2).rq = Config.header :: 0x00 :: 0x64 :: 0x63 :: [] := by decide
theorem witness_SessionRegisterWriters :
    left (fun t => t.mode) (exec (.rxb 1) (bench queues 0)) = some false ∧ Instr.rxb 1 ≠ .readDist ∧
      (∀ b, Instr.rxb 1 ≠ .setProc b) ∧ left State.status (exec .readDist whole) = some 1 := by decide
theorem witness_HostMemoryWriters :
    left (fun t => Memory.read t.mem 0x101) (exec (.rxn 0 1 0x100) (buffered [0xAA, 0xAA] queues 0)) = some 0xAA ∧
      left (fun t => Memory.read t.mem 0x100) (exec (.rxn 0 1 0x100) (buffered [0xAA, 0xAA] queues 0)) = some 0x10 ∧
      ∀ k, k < (1#8).toNat → 0x101 ≠ bufferAddr 0x100 k := by decide

/-- The register invariant holds of the bench, whatever waits on its ports. -/
theorem witness_RegisterInv : RegisterInv (asked .host [0x20] queues 1000) :=
  ⟨by decide, by decide, by decide, by decide, by decide, by decide⟩

theorem witness_RegisterInvAfterReset :
    (benchSetup queues 0).periph.phase = .off ∧ Setup.standard.periph.phase = .off := ⟨rfl, rfl⟩
/-- For StepKeepsTranscriptBracketed, StepKeepsMemoryCanonical, ConfigurationNeverWritten and HistoryOnlyGrows; with
witness_RegisterInv, for StepKeepsRegisterInv. -/
theorem witness_StepKeepsInvariants :
    wellBracketed (asked .host [0x20] queues 1000).transcript = true ∧
      Memory.wf (buffered [0xAA, 0x00, 0xBB] queues 0).mem = true ∧
      left (fun t => t.status) (step (asked .host [0x20] queues 1000)) = some 2 := by decide

/-- A run that presents a request and takes its step. -/
theorem witness_RunsKeepInvariants :
    (benchSetup queues 1000).periph.phase = .off ∧ Memory.wf (benchSetup queues 1000).mem = true ∧
      ∃ t, Run (State.created (benchSetup queues 1000)) t ∧ t.status = 2 := by
  refine ⟨rfl, rfl, _, .step (.host [[⟨.host, [0x20]⟩]] [] [] .start (by rfl)) rfl, ?_⟩
  decide

end Sys2Proof.Tests
end

section
/-! The memory rules of 20_memory.md: the bits of an exchange (R62) and the brackets of the transcript (R72). -/

namespace Sys2Proof

open Machine

/-! ## The bit order of an exchange (R62) -/

theorem wireBits_eq (b : Byte) : wireBits b = [b.getLsbD 7, b.getLsbD 6, b.getLsbD 5, b.getLsbD 4, b.getLsbD 3,
    b.getLsbD 2, b.getLsbD 1, b.getLsbD 0] := rfl

theorem byteOfWireBits_concat (bits : List Bool) (b : Bool) :
    byteOfWireBits (bits ++ [b]) = (byteOfWireBits bits <<< 1) ||| (if b then 1 else 0) := by
  simp [byteOfWireBits]

/-- Bit `i` of the assembled byte is the bit received `i` places before the last one. -/
theorem byteOfWireBits_getLsbD (bits : List Bool) {i : Nat} (hi : i < 8) :
    (byteOfWireBits bits).getLsbD i = bits.reverse.getD i false := by
  induction bits using List.reverseRecOn generalizing i with
  | nil => simp [byteOfWireBits]
  | append_singleton bits b ih =>
    rw [byteOfWireBits_concat]
    cases i with
    | zero => cases b <;> simp
    | succ i =>
      have hlow : (if b then 1 else 0 : Byte).getLsbD (i + 1) = false := by cases b <;> simp
      have hshifted := ih (Nat.lt_of_succ_lt hi)
      rw [BitVec.getLsbD_eq_getElem (Nat.lt_of_succ_lt hi)] at hshifted
      rw [BitVec.getLsbD_or, hlow]
      simpa [hi] using hshifted

theorem byteOfWireBits_wireBits (b : Byte) : byteOfWireBits (wireBits b) = b := by
  refine BitVec.eq_of_getLsbD_eq fun i hi => ?_
  rw [byteOfWireBits_getLsbD _ hi, wireBits_eq]
  interval_cases i <;> rfl

/-- The bits of a run of exchanges are those of its bytes, in order. -/
theorem sentBits_exchanges (ps : List (Byte × Byte)) :
    sentBits (ps.map fun p => .xfer p.1 p.2) = ps.flatMap (fun p => wireBits p.1) := by
  induction ps with
  | nil => rfl
  | cons p ps ih => simp [sentBits, ih]

theorem receivedBits_exchanges (ps : List (Byte × Byte)) :
    receivedBits (ps.map fun p => .xfer p.1 p.2) = ps.flatMap (fun p => wireBits p.2) := by
  induction ps with
  | nil => rfl
  | cons p ps ih => simp [receivedBits, ih]

/-- Settles O7: an exchange appends one event, whose bits assemble to its two bytes. -/
theorem wireBitOrder : Obligations.WireBitOrder := by
  unfold Obligations.WireBitOrder
  refine ⟨fun b => ⟨wireBits_eq b, byteOfWireBits_wireBits b⟩, fun m s => ?_, fun ps => ?_⟩
  · have hsent : sentBits [.xfer m (xfer m s).1] = wireBits m := by simp [sentBits]
    have hreceived : receivedBits [.xfer m (xfer m s).1] = wireBits (xfer m s).1 := by simp [receivedBits]
    refine ⟨_, xfer_emits m s, hsent, hreceived, ?_, ?_⟩
    · rw [hsent, byteOfWireBits_wireBits]
    · rw [hreceived, byteOfWireBits_wireBits]
  · constructor
    · simp [sentBits, sentBits_exchanges]
    · simp [receivedBits, receivedBits_exchanges]

/-! ## Every step appends whole brackets (R72) -/

/-- SETPROC adds one mode-line event, between two brackets (R211, R290). -/
theorem driveMode_whole (b : Bool) (s : State) : Whole s (driveMode b s) := ⟨[.mode b], rfl, rfl⟩

theorem readDistance_whole (c : Byte) (s : State) : Whole s (readDistance c s) := by
  have hnow : Whole s (now s).2 := (Whole.refl s).then rfl
  unfold readDistance
  simp only
  split
  · exact hnow.then rfl
  · obtain ⟨-, -, hattempt⟩ := attempt_outcome c (now s).1 (now s).2
    exact hnow.trans hattempt

theorem exec_whole {i : Instr} {s t : State} (h : exec i s = .next t) : Whole s t := by
  rcases exec_cases h with hserved | ⟨b, -, rfl⟩ | ⟨-, c, -, rfl⟩
  · exact hserved.whole
  · exact (driveMode_whole b (s.setMode b)).then rfl
  · exact readDistance_whole c s

theorem step_whole {s t : State} (h : step s = .next t) : Whole s t := by
  rcases step_cases h with ⟨-, rfl⟩ | ⟨-, t0, c, -, -, rfl⟩ | ⟨-, -, -, rfl⟩ | ⟨-, -, p, ps, i, hexec⟩
  · exact (Whole.refl s).then rfl
  · obtain ⟨-, -, hscan⟩ := scanHeader_outcome c t0 (scanBudget c s) s
    exact hscan
  · exact .refl _
  · have hgrant : Whole s { s with ports := ps, grant := p, draws := s.draws + 1 } := (Whole.refl s).then rfl
    exact hgrant.trans (exec_whole hexec)

/-- Settles O58: whole brackets appended to whole brackets are whole brackets. -/
theorem stepKeepsTranscriptBracketed : Obligations.StepKeepsTranscriptBracketed := by
  unfold Obligations.StepKeepsTranscriptBracketed
  exact fun _ _ hw hstep => (step_whole hstep).wellBracketed hw

end Sys2Proof
end

section
/-! The encodings of 30_encoding.md: the fields of a command byte (R92), the host codes and view indices that are refused
(R102), and the decoded distance (R63, R109). -/

namespace Sys2Proof

open Machine

/-! ## The command byte (R92) -/

/-- A command byte is the opcode's four bits, two zero bits and the channel's two bits. -/
theorem cmdByte_eq_append (opc : BitVec 4) (cc : Chan) : cmdByte opc cc = opc ++ (0#2 ++ cc) := by
  refine BitVec.eq_of_getLsbD_eq fun i hi => ?_
  rw [BitVec.getLsbD_append, BitVec.getLsbD_append]
  interval_cases i <;> simp [cmdByte]

theorem cmdByte_opcode (opc : BitVec 4) (cc : Chan) : (cmdByte opc cc).extractLsb' 4 4 = opc := by
  rw [cmdByte_eq_append, BitVec.extractLsb'_append_eq_left]

theorem cmdByte_zero_bits (opc : BitVec 4) (cc : Chan) : (cmdByte opc cc).extractLsb' 2 2 = 0 := by
  rw [cmdByte_eq_append, BitVec.extractLsb'_append_eq_of_add_le (by decide)]
  exact BitVec.extractLsb'_append_eq_left

theorem cmdByte_channel (opc : BitVec 4) (cc : Chan) : (cmdByte opc cc).extractLsb' 0 2 = cc := by
  rw [cmdByte_eq_append, BitVec.extractLsb'_append_eq_of_add_le (by decide), BitVec.extractLsb'_append_eq_right]

/-- Settles O4: each field is read off the command byte written as an append of fields. -/
theorem commandByteFields : Obligations.CommandByteFields := by
  unfold Obligations.CommandByteFields
  refine ⟨fun opc cc => ⟨rfl, cmdByte_opcode opc cc, cmdByte_zero_bits opc cc, cmdByte_channel opc cc⟩,
    fun cc => ⟨rfl, rfl, rfl, rfl, rfl⟩, rfl, fun c => channel?_of_lt, fun c => channel?_of_ge⟩

/-! ## Host operation codes (R102) -/

/-- The decoder refuses every code that is none of the 23 of R101, whatever follows it. -/
theorem decode_unassignedOp {op : Byte} (rest : List Byte)
    (hop : op ∉ ([0x01, 0x02, 0x03, 0x04, 0x05, 0x06, 0x07, 0x10, 0x11, 0x12, 0x13, 0x14, 0x15, 0x16, 0x17,
      0x20, 0x21, 0x22, 0x23, 0x24, 0x25, 0x26, 0x27] : List Byte)) :
    decode .host (op :: rest) = .error (.unassignedOp op) := by
  change decodeOperands op rest = _
  unfold decodeOperands
  split
  case h_24 => rfl
  all_goals exact absurd (by simp [← BitVec.toNat_inj, *]) hop

namespace Machine

theorem decodeRequest_of_decode_error {r : Request} {e : DecodeError} (h : decode r.layer r.bytes = .error e) :
    decodeRequest r = .error (.undecodable e) := by
  simp [decodeRequest, h]

/-- With nothing in progress a step serves a request. -/
theorem step_of_idle {s : State} (hb : s.bstate = .idle) (hs : s.session = .idle) : step s = serve s := by
  simp [step, hb, hs]

theorem serve_of_granted_refused {s s' : State} {r : Request} {e : Refusal} (hg : grantNext s = some (r, s'))
    (hr : decodeRequest r = .error e) : serve s = .refused e := by
  simp [serve, hg, hr]

/-! ## View indices (R102, R170) -/

theorem viewChannel?_of_ge {s : State} {k : Byte} (h : s.viewChan.length ≤ k.toNat) : viewChannel? s k = none :=
  List.getElem?_eq_none h

theorem onView_of_ge {s : State} {k : Byte} (h : s.viewChan.length ≤ k.toNat) (run : Byte → Ran) :
    onView k s run = .refused (.noSuchView k) := by
  simp [onView, viewChannel?_of_ge h]

end Machine

/-- Settles O6: the decoder's last arm answers the unassigned codes, and every view operation first looks up its view. -/
theorem hostCodeRefusals : Obligations.HostCodeRefusals := by
  unfold Obligations.HostCodeRefusals
  constructor
  · intro op rest hop
    have hdecode := decode_unassignedOp rest hop
    refine ⟨hdecode, fun s s' hb hs hg => ?_⟩
    rw [step_of_idle hb hs]
    exact serve_of_granted_refused hg (decodeRequest_of_decode_error hdecode)
  · intro s k v len r rate hk
    have hview := onView_of_ge hk
    exact ⟨hview _, hview _, hview _, hview _, hview _, hview _, hview _, hview _⟩

/-! ## The decoded distance (R63, R109) -/

/-- The raw distance is its two bytes one behind the other, the high one first. -/
theorem rawDistance_eq_append (hi lo : Byte) : rawDistance hi lo = hi ++ lo := by
  rw [BitVec.append_def, BitVec.shiftLeftZeroExtend_eq]
  rfl

theorem rawDistance_toNat (hi lo : Byte) : (rawDistance hi lo).toNat = hi.toNat * 256 + lo.toNat := by
  rw [rawDistance_eq_append, BitVec.toNat_append, ← Nat.shiftLeft_add_eq_or_of_lt lo.isLt, Nat.shiftLeft_eq]

theorem decodedDistance_toNat (hi lo : Byte) :
    (decodedDistance hi lo).toNat = max 30 (rawDistance hi lo).toNat := by
  unfold decodedDistance
  split_ifs with h
  · exact (max_eq_left (BitVec.lt_def.mp h).le).symm
  · exact (max_eq_right (BitVec.not_lt.mp h)).symm

/-- Settles O38: the two bytes do not overlap in the half word, and the comparison is the one of the numbers. -/
theorem distanceArithmetic : Obligations.DistanceArithmetic := by
  unfold Obligations.DistanceArithmetic
  intro hi lo
  rw [decodedDistance_toNat, rawDistance_toNat]
  exact ⟨rfl, rfl⟩

end Sys2Proof
end

section
/-! The bridge operations of 41_bridge.md: what each of them is on a channel of 4 or more (R120), and the depth queries and the
one-byte receive on a channel 0..3 (R129 to R131). -/

namespace Sys2Proof.Machine

/-! ## A channel operand of 4 or more (R120) -/

theorem queryReceiveDepth_of_ge {c : Byte} (h : 4 ≤ c.toNat) (s : State) : queryReceiveDepth c s = (0x00#8, s) := by
  simp [queryReceiveDepth, channel?_of_ge h]

theorem queryTransmitDepth_of_ge {c : Byte} (h : 4 ≤ c.toNat) (s : State) :
    queryTransmitDepth c s = (0x00#8, s) := by
  simp [queryTransmitDepth, channel?_of_ge h]

theorem receiveByte_of_ge {c : Byte} (h : 4 ≤ c.toNat) (s : State) : receiveByte c s = (0x00#8, s) := by
  simp [receiveByte, channel?_of_ge h]

/-- The channel is tested before the buffer, so a short buffer is not refused here (R120). -/
theorem receiveBuffer_of_ge {c : Byte} (h : 4 ≤ c.toNat) (len : Byte) (dst : Ref) (s : State) :
    receiveBuffer c len dst s = .next (s.reply .nothing) := by
  simp [receiveBuffer, channel?_of_ge h]

theorem transmitByte_of_ge {c : Byte} (h : 4 ≤ c.toNat) (v : Byte) (s : State) : transmitByte c v s = s := by
  simp [transmitByte, channel?_of_ge h]

theorem transmitBuffer_of_ge {c : Byte} (h : 4 ≤ c.toNat) (len : Byte) (src : Ref) (s : State) :
    transmitBuffer c len src s = .next (s.reply .nothing) := by
  simp [transmitBuffer, channel?_of_ge h]

theorem setBaudRate_of_ge {c : Byte} (h : 4 ≤ c.toNat) (code : Byte) (s : State) : setBaudRate c code s = s := by
  simp [setBaudRate, channel?_of_ge h]

theorem execQrd_of_ge {c : Byte} (h : 4 ≤ c.toNat) (s : State) : execQrd c s = .next (s.reply (.byte 0x00)) := by
  simp [execQrd, queryReceiveDepth_of_ge h]

theorem execQtd_of_ge {c : Byte} (h : 4 ≤ c.toNat) (s : State) : execQtd c s = .next (s.reply (.byte 0x00)) := by
  simp [execQtd, queryTransmitDepth_of_ge h]

theorem execRxb_of_ge {c : Byte} (h : 4 ≤ c.toNat) (s : State) : execRxb c s = .next (s.reply (.byte 0x00)) := by
  simp [execRxb, receiveByte_of_ge h]

theorem execTxb_of_ge {c : Byte} (h : 4 ≤ c.toNat) (v : Byte) (s : State) :
    execTxb c v s = .next (s.reply .nothing) := by
  rw [execTxb, transmitByte_of_ge h]

theorem execSetBaud_of_ge {c : Byte} (h : 4 ≤ c.toNat) (code : Byte) (s : State) :
    execSetBaud c code s = .next (s.reply .nothing) := by
  rw [execSetBaud, setBaudRate_of_ge h]

/-! ## A channel operand of 0..3 -/

theorem queryReceiveDepth_of_lt {c : Byte} (h : c.toNat < 4) (s : State) :
    queryReceiveDepth c s = wireQuery 0x1#4 (c.extractLsb' 0 2) s := by
  simp [queryReceiveDepth, channel?_of_lt h]

theorem queryTransmitDepth_of_lt {c : Byte} (h : c.toNat < 4) (s : State) :
    queryTransmitDepth c s = wireQuery 0x3#4 (c.extractLsb' 0 2) s := by
  simp [queryTransmitDepth, channel?_of_lt h]

theorem receiveByte_of_lt {c : Byte} (h : c.toNat < 4) (s : State) :
    receiveByte c s = ((wireReceive (c.extractLsb' 0 2) 0x01#8 s).1.headD 0x00#8,
      (wireReceive (c.extractLsb' 0 2) 0x01#8 s).2) := by
  simp [receiveByte, channel?_of_lt h]

/-- A depth query with its reply: one bracket with the count it answers, every queue as the select found it (R124, R125). -/
theorem wireQuery_replied {opc : BitVec 4} {cc : Chan} {q : Queue} (s : State)
    (h : Phase.command.next (cmdByte opc cc) = .depth q cc) :
    ∃ a n t, (wireQuery opc cc s).2.reply (.byte (wireQuery opc cc s).1) = t ∧
      Emits s t [.sel, .xfer (cmdByte opc cc) a, .xfer 0x00 n, .desel] ∧
      Returns s t (.byte n) ∧ BusFrame s t ∧ SameMemory s t ∧ ∀ x, t.periph.get x = channelAtSelect s x := by
  obtain ⟨a, hemits⟩ := wireQuery_emits opc cc s
  have hbracket := wireQuery_bracketed opc cc s
  have hframe := hbracket.frame (.byte (wireQuery opc cc s).1)
  obtain ⟨hperiph, -⟩ := wireQuery_spec s h
  refine ⟨a, _, _, rfl, hemits, hbracket.returns _, hframe, busFrame_memory hframe, fun x => ?_⟩
  rw [State.reply_periph, hperiph]
  rfl

/-- A receive of length 1 answers and removes the head of RQ, and leaves the other channels (R131, R137). -/
theorem receiveByte_spec {c : Byte} (h : c.toNat < 4) (s : State) :
    (∀ v rest, (channelAtSelect s (c.extractLsb' 0 2)).rq = v :: rest → (receiveByte c s).1 = v) ∧
      (receiveByte c s).2.periph.get (c.extractLsb' 0 2) =
        { channelAtSelect s (c.extractLsb' 0 2) with rq := (channelAtSelect s (c.extractLsb' 0 2)).rq.tail } ∧
      ∀ x, x ≠ c.extractLsb' 0 2 → (receiveByte c s).2.periph.get x = channelAtSelect s x := by
  obtain ⟨htake, hself, hother, -⟩ := wireReceive_spec (c.extractLsb' 0 2) 0x01#8 s
  rw [receiveByte_of_lt h]
  refine ⟨fun v rest hrq => ?_, by simpa using hself, hother⟩
  have hlen := wireReceive_length (c.extractLsb' 0 2) 0x01#8 s
  obtain ⟨r, hr⟩ := List.length_eq_one_iff.mp hlen
  rw [hr, hrq] at htake
  simpa [hr] using htake

theorem receiveByte_bracketed {c : Byte} (h : c.toNat < 4) (s : State) : Bracketed s (receiveByte c s).2 := by
  rw [receiveByte_of_lt h]
  exact wireReceive_bracketed _ _ s

end Sys2Proof.Machine

namespace Sys2Proof

open Machine

/-- Settles O22: the count is that of the one receive-depth bracket, or no channel is named. -/
theorem qrdCompletes : Obligations.QrdCompletes := by
  unfold Obligations.QrdCompletes
  refine fun s c => ⟨fun hlt => ?_, fun hge => execQrd_of_ge hge s⟩
  obtain ⟨a, n, t, hreply, hspec⟩ := wireQuery_replied s (command_next_qrd (c.extractLsb' 0 2))
  rw [cmdByte_of_channel? (channel?_of_lt hlt)] at hspec
  have hexec : exec (.qrd c) s = .next t := by
    change execQrd c s = _
    rw [execQrd, queryReceiveDepth_of_lt hlt, hreply]
  exact ⟨a, n, t, hexec, hspec⟩

/-- Settles O23: the count is that of the one transmit-depth bracket, or no channel is named. -/
theorem qtdCompletes : Obligations.QtdCompletes := by
  unfold Obligations.QtdCompletes
  refine fun s c => ⟨fun hlt => ?_, fun hge => execQtd_of_ge hge s⟩
  obtain ⟨a, n, t, hreply, hspec⟩ := wireQuery_replied s (command_next_qtd (c.extractLsb' 0 2))
  rw [cmdByte_of_channel? (channel?_of_lt hlt)] at hspec
  have hexec : exec (.qtd c) s = .next t := by
    change execQtd c s = _
    rw [execQtd, queryTransmitDepth_of_lt hlt, hreply]
  exact ⟨a, n, t, hexec, hspec⟩

/-- Settles O24: the one bracket of `receiveByte_took`, whose effect on the queues `receiveByte_spec` gives. -/
theorem rxbCompletes : Obligations.RxbCompletes := by
  unfold Obligations.RxbCompletes
  refine fun s c => ⟨fun hlt => ?_, fun hge => execRxb_of_ge hge s⟩
  obtain ⟨_, ⟨a, b, rfl⟩, hemits⟩ := receiveByte_took hlt s
  have hbracket := receiveByte_bracketed hlt s
  have hframe := hbracket.frame (.byte (receiveByte c s).1)
  exact ⟨a, b, _, _, rfl, hemits, hbracket.returns _, hframe, busFrame_memory hframe, receiveByte_spec hlt s⟩

/-- Settles O29: every operation tests its channel before it does anything else. -/
theorem absentChannelIsNoOp : Obligations.AbsentChannelIsNoOp := by
  unfold Obligations.AbsentChannelIsNoOp
  exact fun s c v len code r h => ⟨execQrd_of_ge h s, execQtd_of_ge h s, execRxb_of_ge h s,
    receiveBuffer_of_ge h len r s, execTxb_of_ge h v s, transmitBuffer_of_ge h len r s, execSetBaud_of_ge h code s⟩

end Sys2Proof
end

section
/-! The Channel View operations of 42_channel_view.md: each as the bridge operation on the channel of its view (R170), the
two that answer NOT_AVAILABLE (R178, R179), views on a channel of 4 or more (R180), and `rate2code` (R177). -/

namespace Sys2Proof.Machine

/-! ## The channel of an existing view (R170) -/

theorem onView_of_channel {s : State} {k c : Byte} (h : s.viewChan[k.toNat]? = some c) (run : Byte → Ran) :
    onView k s run = run c := by
  have hchannel : viewChannel? s k = some c := h
  rw [onView, hchannel]

/-! ## `rate2code` (R177) -/

/-- A rate that differs from the eight listed ones falls through every comparison. -/
theorem rate2code_of_unlisted {rate : Rate}
    (h : rate ∉ ([1200, 2400, 4800, 9600, 19200, 38400, 57600, 115200] : List Rate)) : rate2code rate = 3 := by
  simp only [List.mem_cons, List.not_mem_nil, or_false, not_or] at h
  obtain ⟨h0, h1, h2, h3, h4, h5, h6, h7⟩ := h
  rw [rate2code, if_neg h0, if_neg h1, if_neg h2, if_neg h3, if_neg h4, if_neg h5, if_neg h6, if_neg h7]

theorem rate2code_toNat_lt (rate : Rate) : (rate2code rate).toNat < 8 := by
  unfold rate2code
  split_ifs <;> decide

theorem rate2code_lineRate {code : Fin 10} (h : code.val < 8) :
    rate2code (lineRate code) = BitVec.ofNat 8 code.val := by
  revert code
  decide

end Sys2Proof.Machine

namespace Sys2Proof

open Machine

/-- Settles O36: the eight comparisons are exact, and the default code 3 is below 8 like the other eight. -/
theorem rateToCodeTable : Obligations.RateToCodeTable := by
  unfold Obligations.RateToCodeTable
  exact ⟨rfl, rfl, rfl, rfl, rfl, rfl, rfl, rfl, fun _ => rate2code_of_unlisted, rate2code_toNat_lt,
    fun _ => rate2code_lineRate⟩

/-- Settles O31: a view operation looks up its view's channel and runs the bridge operation there. -/
theorem viewOperationsAreBridgeOperations : Obligations.ViewOperationsAreBridgeOperations := by
  unfold Obligations.ViewOperationsAreBridgeOperations
  refine fun s k v len r rate => ⟨fun c hc => ?_, fun hk => ?_⟩
  · have hview := onView_of_channel hc
    exact ⟨hview _, hview _, hview _, hview _, hview _, hview _⟩
  · have hview := onView_of_ge hk
    exact ⟨hview _, hview _, hview _, hview _, hview _, hview _⟩

/-- Settles O34: once the view exists, PEEK and PARSE are a reply and nothing else. -/
theorem peekAndParseAnswerNotAvailable : Obligations.PeekAndParseAnswerNotAvailable := by
  unfold Obligations.PeekAndParseAnswerNotAvailable
  intro s k hk
  have hview := onView_of_channel (List.getElem?_eq_getElem hk)
  exact ⟨hview _, hview _⟩

/-- Settles O35: six of the operations are bridge operations on an absent channel (O31, O29); PEEK and PARSE answer
NOT_AVAILABLE on every view (O34). -/
theorem absentViewIsNoOp : Obligations.AbsentViewIsNoOp := by
  unfold Obligations.AbsentViewIsNoOp
  intro s k v len c r rate hc hge
  obtain ⟨havail, hread, hreadn, hwrite, hwriten, hbegin⟩ :=
    (viewOperationsAreBridgeOperations s k v len r rate).1 c hc
  obtain ⟨hqrd, -, hrxb, hrxn, htxb, htxn, hsetBaud⟩ := absentChannelIsNoOp s c v len (rate2code rate) r hge
  obtain ⟨hlt, -⟩ := List.getElem?_eq_some_iff.mp hc
  obtain ⟨hpeek, hparse⟩ := peekAndParseAnswerNotAvailable s k hlt
  exact ⟨havail.trans hqrd, hread.trans hrxb, hreadn.trans hrxn, hwrite.trans htxb, hwriten.trans htxn,
    hbegin.trans hsetBaud, hpeek, hparse⟩

end Sys2Proof
end

section
/-! The sensor session of 43_sensor_session.md: the frame checksum (R218), the throttle (R202) and the first depth query of an
attempt (R203), SETPROC (R211) and the six getters (R212 to R217). -/

namespace Sys2Proof.Machine

/-! ## The frame checksum (R207, R218) -/

theorem frameChecksum_toNat (hi lo : Byte) :
    (frameChecksum hi lo).toNat = (255 + hi.toNat + lo.toNat) % 256 := by
  simp [frameChecksum]

theorem frameChecksum_eq_sub_one (hi lo : Byte) : frameChecksum hi lo = hi + lo - 1 := by
  have hsum := frameChecksum_toNat hi lo
  bv_omega

/-- Flipping bit `i` of a byte changes bit `i`. -/
theorem xor_bit_ne (b : Byte) {i : Nat} (hi : i < 8) : b ^^^ (1#8 <<< i) ≠ b := by
  intro h
  have hbit := congrArg (fun x : Byte => x.getLsbD i) h
  simp [hi] at hbit

/-! ## The throttle (R202) -/

theorem throttled_iff (t since : Clock) : throttled t since = true ↔ (elapsed t since).toNat < 100 := by
  simp [throttled, BitVec.lt_def]

theorem exec_readDist_of_channel {s : State} {c : Byte} (h : s.viewChan[s.sessView.toNat]? = some c) :
    exec .readDist s = .next (readDistance c s) := by
  have hchannel : viewChannel? s s.sessView = some c := h
  change execReadDist s = _
  rw [execReadDist, hchannel]

theorem readDistance_of_throttled {s : State} (c : Byte) (h : (elapsed (now s).1 s.lastReadMs).toNat < 100) :
    readDistance c s = (now s).2.reply (.code s.result) :=
  if_pos ((throttled_iff _ _).mpr h)

theorem readDistance_of_admitted {s : State} (c : Byte) (h : 100 ≤ (elapsed (now s).1 s.lastReadMs).toNat) :
    readDistance c s = attempt c (now s).1 (now s).2 :=
  if_neg (mt (throttled_iff _ _).mp h.not_gt)

/-! ## The first depth query of an attempt (R203) -/

theorem attempt_of_short {c : Byte} {s : State} (t : Clock) (h : (queryReceiveDepth c s).1.toNat < 4) :
    attempt c t s =
      endAttempt t Config.stFrameTooShort Config.resIncompleteFrame (queryReceiveDepth c s).2 :=
  if_pos (BitVec.lt_def.mpr h)

theorem attempt_of_enough {c : Byte} {s : State} (t : Clock) (h : 4 ≤ (queryReceiveDepth c s).1.toNat) :
    attempt c t s =
      scanHeader c t (scanBudget c (queryReceiveDepth c s).2) (queryReceiveDepth c s).2 :=
  if_neg (mt BitVec.lt_def.mp h.not_gt)

theorem queryReceiveDepth_bracketed {c : Byte} (h : c.toNat < 4) (s : State) :
    Bracketed s (queryReceiveDepth c s).2 := by
  rw [queryReceiveDepth_of_lt h]
  exact wireQuery_bracketed _ _ s

/-- A depth query consumes nothing (R124). -/
theorem queryReceiveDepth_get {c : Byte} (h : c.toNat < 4) (s : State) (x : Chan) :
    (queryReceiveDepth c s).2.periph.get x = channelAtSelect s x := by
  obtain ⟨hperiph, -⟩ := wireQuery_spec s (command_next_qrd (c.extractLsb' 0 2))
  rw [queryReceiveDepth_of_lt h, hperiph]
  rfl

/-- An attempt that ends after one bracket changes what the bracket changes, its codes, its timestamp and the reply. -/
theorem Bracketed.endAttempt_frame {s u : State} (h : Bracketed s u) (t : Clock) (st res : Code) :
    endAttempt t st res u = { s with
      sel := false, bstate := .idle, session := .idle, status := st, result := res, lastReadMs := t,
      periph := u.periph, draws := u.draws, transcript := u.transcript,
      returned := (endAttempt t st res u).returned } := by
  unfold Bracketed at h
  rw [h]
  rfl

theorem Bracketed.endAttempt_returns {s u : State} (h : Bracketed s u) (t : Clock) (st res : Code) :
    Returns s (endAttempt t st res u) (.code res) := by
  unfold Bracketed at h
  rw [h]
  rfl

/-- Whatever follows the first test of a header scan adds whole brackets to it (R204). -/
theorem scanHeader_whole_after_test (c : Byte) (t : Clock) (fuel : Nat) (s : State) :
    Whole (queryReceiveDepth c s).2 (scanHeader c t (fuel + 1) s) := by
  have hbyte := receiveByte_whole c (queryReceiveDepth c s).2
  rw [scanHeader]
  simp only
  split_ifs
  · exact (Whole.refl _).then rfl
  · obtain ⟨-, -, hframe⟩ := afterHeader_ended c t (receiveByte c (queryReceiveDepth c s).2).2
    exact hbyte.trans hframe
  · obtain ⟨-, -, hscan⟩ := scanHeader_outcome c t fuel (receiveByte c (queryReceiveDepth c s).2).2
    exact hbyte.trans hscan

/-- The first events of a header scan that may test at all are those of a depth query (R204). -/
theorem scanHeader_asks_first {c : Byte} (h : c.toNat < 4) (t : Clock) {fuel : Nat} (hfuel : fuel ≠ 0) (s : State) :
    ∃ n q more, AskedDepth c n q ∧ Emits s (scanHeader c t fuel s) (q ++ more) := by
  obtain ⟨k, rfl⟩ := Nat.exists_eq_succ_of_ne_zero hfuel
  obtain ⟨q, hasked, hquery⟩ := queryReceiveDepth_asked h s
  obtain ⟨more, hrest, -⟩ := scanHeader_whole_after_test c t k s
  exact ⟨_, q, more, hasked, emits_trans hquery hrest⟩

end Sys2Proof.Machine

namespace Sys2Proof

open Machine

/-- Settles O40: fewer than 4 end the attempt in the state the query leaves; 4 or more go on to the scan, whose budget allows
at least one test. -/
theorem frameTooShort : Obligations.FrameTooShort := by
  unfold Obligations.FrameTooShort
  intro s c hview hc hadmitted
  have hexec := exec_readDist_of_channel hview
  rw [readDistance_of_admitted c hadmitted] at hexec
  obtain ⟨_, ⟨a, rfl⟩, hquery⟩ := queryReceiveDepth_asked hc (now s).2
  constructor
  · intro hshort
    rw [attempt_of_short _ hshort] at hexec
    have hbracket := queryReceiveDepth_bracketed hc (now s).2
    exact ⟨a, _, hexec, hquery, hbracket.endAttempt_returns _ _ _, hbracket.endAttempt_frame _ _ _,
      queryReceiveDepth_get hc (now s).2⟩
  · intro henough
    rw [attempt_of_enough _ henough] at hexec
    obtain ⟨n, _, more, ⟨b, rfl⟩, hscan⟩ := scanHeader_asks_first hc (now s).1
      (scanBudget_ne_zero c (queryReceiveDepth c (now s).2).2) (queryReceiveDepth c (now s).2).2
    have hboth := emits_trans hquery hscan
    exact ⟨a, b, n, more, _, hexec, hboth⟩

/-- Settles O39: a throttled call is the clock sample and the reply; an admitted one begins with the depth query of O40,
whatever it answers. -/
theorem throttleRule : Obligations.ThrottleRule := by
  unfold Obligations.ThrottleRule
  refine fun s c hview => ⟨fun hthrottled => ?_, fun hadmitted hc => ?_⟩
  · rw [exec_readDist_of_channel hview, readDistance_of_throttled c hthrottled]
    rfl
  · obtain ⟨hshort, henough⟩ := frameTooShort s c hview hc hadmitted
    rcases Nat.lt_or_ge (queryReceiveDepth c (now s).2).1.toNat 4 with hn | hn
    · obtain ⟨a, t, hexec, hemits, -⟩ := hshort hn
      exact ⟨a, _, [], t, hexec, hemits⟩
    · obtain ⟨a, b, n, more, t, hexec, hemits⟩ := henough hn
      exact ⟨a, _, _, t, hexec, hemits⟩

/-- Settles O37: the sum of 10 bits does not overflow before it is reduced, and a flipped bit differs. -/
theorem checksumArithmetic : Obligations.ChecksumArithmetic := by
  unfold Obligations.ChecksumArithmetic
  exact ⟨fun hi lo => ⟨frameChecksum_toNat hi lo, frameChecksum_eq_sub_one hi lo, fun _ => xor_bit_ne _⟩,
    rfl, rfl, rfl, rfl⟩

/-- Settles O50: SETPROC is the mode write, the drive of the line and the reply. -/
theorem setProcCompletes : Obligations.SetProcCompletes := by
  unfold Obligations.SetProcCompletes
  exact fun _ _ => rfl

/-- Settles O51: each getter is the reply that carries its register. -/
theorem gettersComplete : Obligations.GettersComplete := by
  unfold Obligations.GettersComplete
  exact fun _ => ⟨rfl, rfl, rfl, rfl, rfl, rfl⟩

end Sys2Proof
end

section
/-! Reset and the first READDIST (70_reset_and_hazards.md): against `last_read_ms` = 0 the throttle of R202 compares the clock
sample itself. -/

namespace Sys2Proof

open Machine

theorem Machine.elapsed_zero (t : Clock) : elapsed t 0 = t :=
  BitVec.sub_zero t

/-- Settles O15: reset leaves both registers 0, and such a call is one O39 throttles, answered with the stored RES_NONE. -/
theorem firstReadDistIsThrottled : Obligations.FirstReadDistIsThrottled := by
  unfold Obligations.FirstReadDistIsThrottled
  refine ⟨fun _ => ⟨rfl, rfl⟩, fun s c hview hlast hresult hearly => ?_⟩
  obtain ⟨hthrottled, -⟩ := throttleRule s c hview
  have helapsed : (elapsed (now s).1 s.lastReadMs).toNat < 100 := by
    rwa [hlast, elapsed_zero]
  rw [hthrottled helapsed, hresult]

end Sys2Proof
end

section
/-! The decoders against the encoder (30_encoding.md): every encoding is read back (R93, R101), and nothing but encodings is
accepted (R95, R97, R102). -/

namespace Sys2Proof

open Machine

/-! ## Operands: what the readers accept, and what they read from an encoded operand -/

theorem operandBuf_bytes32 (f : Byte → Byte → Ref → Instr) (a b : Byte) (ref : Ref) (rest : List Byte) :
    operandBuf f (a :: b :: bytes32 ref ++ rest) = .ok (f a b ref, rest) := by
  simp [operandBuf, bytes32, word32_bytes32]

theorem operandRate_bytes32 (f : Byte → Rate → Instr) (a : Byte) (rate : Rate) (rest : List Byte) :
    operandRate f (a :: bytes32 rate ++ rest) = .ok (f a rate, rest) := by
  simp [operandRate, bytes32, word32_bytes32]

theorem operandMode_flag (f : Bool → Instr) (b : Bool) (rest : List Byte) :
    operandMode f ((if b then 1 else 0) :: rest) = .ok (f b, rest) := by
  cases b <;> rfl

theorem operand1_ok {f : Byte → Instr} {bs rest : List Byte} {i : Instr} (h : operand1 f bs = .ok (i, rest)) :
    ∃ a, i = f a ∧ bs = a :: rest := by
  unfold operand1 at h
  split at h <;> cases h
  exact ⟨_, rfl, rfl⟩

theorem operand2_ok {f : Byte → Byte → Instr} {bs rest : List Byte} {i : Instr} (h : operand2 f bs = .ok (i, rest)) :
    ∃ a b, i = f a b ∧ bs = a :: b :: rest := by
  unfold operand2 at h
  split at h <;> cases h
  exact ⟨_, _, rfl, rfl⟩

theorem operandBuf_ok {f : Byte → Byte → Ref → Instr} {bs rest : List Byte} {i : Instr}
    (h : operandBuf f bs = .ok (i, rest)) : ∃ a b ref, i = f a b ref ∧ bs = a :: b :: bytes32 ref ++ rest := by
  unfold operandBuf at h
  split at h <;> cases h
  exact ⟨_, _, _, rfl, by rw [bytes32_word32]; rfl⟩

theorem operandRate_ok {f : Byte → Rate → Instr} {bs rest : List Byte} {i : Instr}
    (h : operandRate f bs = .ok (i, rest)) : ∃ a rate, i = f a rate ∧ bs = a :: bytes32 rate ++ rest := by
  unfold operandRate at h
  split at h <;> cases h
  exact ⟨_, _, rfl, by rw [bytes32_word32]; rfl⟩

theorem operandMode_ok {f : Bool → Instr} {bs rest : List Byte} {i : Instr} (h : operandMode f bs = .ok (i, rest)) :
    ∃ b, i = f b ∧ bs = (if b then 1 else 0) :: rest := by
  unfold operandMode at h
  split at h
  · split_ifs at h with h0 h1 <;> cases h
    · exact ⟨false, rfl, by rw [h0]; rfl⟩
    · exact ⟨true, rfl, by rw [h1]; rfl⟩
  · cases h

/-! ## The host layer -/

/-- A host operation is read back from its code and operands. -/
theorem decodeHost_encode {i : Instr} (hi : i.layer = .host) (rest : List Byte) :
    decodeHost (encode i ++ rest) = .ok (i, rest) := by
  cases i
  case cmdQrd | cmdRx | cmdQtd | cmdTx | cmdBaud => cases hi
  case rxn c len dst => exact operandBuf_bytes32 .rxn c len dst rest
  case txn c len src => exact operandBuf_bytes32 .txn c len src rest
  case readn k len dst => exact operandBuf_bytes32 .readn k len dst rest
  case writen k len src => exact operandBuf_bytes32 .writen k len src rest
  case beginRate k rate => exact operandRate_bytes32 .beginRate k rate rest
  case setProc b => exact operandMode_flag .setProc b rest
  all_goals rfl

/-- The instruction is the host operation with code `op`. -/
def HasHostCode (op : Byte) (i : Instr) : Prop :=
  i.layer = .host ∧ i.wellFormed = true ∧ hostOpCode i = some op

/-- The operands read behind a code are those of an operation with that code, and encode to the bytes taken. -/
theorem decodeOperands_ok {op : Byte} {bs rest : List Byte} {i : Instr} (h : decodeOperands op bs = .ok (i, rest)) :
    HasHostCode op i ∧ bs = encodeTail i ++ rest := by
  have hcode : ∀ {n : Nat}, op.toNat = n → some (BitVec.ofNat 8 n) = some op := by
    rintro _ rfl
    rw [BitVec.ofNat_toNat, BitVec.setWidth_eq]
  unfold decodeOperands at h
  split at h
  case h_1 hop | h_2 hop | h_3 hop | h_8 hop | h_9 hop | h_14 hop | h_15 hop =>
    obtain ⟨a, rfl, rfl⟩ := operand1_ok h
    exact ⟨⟨rfl, rfl, hcode hop⟩, rfl⟩
  case h_5 hop | h_7 hop | h_11 hop =>
    obtain ⟨a, b, rfl, rfl⟩ := operand2_ok h
    exact ⟨⟨rfl, rfl, hcode hop⟩, rfl⟩
  case h_4 hop | h_6 hop | h_10 hop | h_12 hop =>
    obtain ⟨a, b, ref, rfl, rfl⟩ := operandBuf_ok h
    exact ⟨⟨rfl, rfl, hcode hop⟩, rfl⟩
  case h_13 hop =>
    obtain ⟨a, rate, rfl, rfl⟩ := operandRate_ok h
    exact ⟨⟨rfl, rfl, hcode hop⟩, rfl⟩
  case h_17 hop =>
    obtain ⟨b, rfl, rfl⟩ := operandMode_ok h
    exact ⟨⟨rfl, rfl, hcode hop⟩, rfl⟩
  case h_24 => cases h
  all_goals
    rename_i hop
    cases h
    exact ⟨⟨rfl, rfl, hcode hop⟩, rfl⟩

theorem encode_of_hasHostCode {op : Byte} {i : Instr} (h : HasHostCode op i) : encode i = op :: encodeTail i := by
  obtain ⟨-, -, hop⟩ := h
  rw [encode, hop]

/-! ## The wire layer -/

/-- A well-formed wire command is read back from its bracket. -/
theorem decodeWire_encode {i : Instr} (hi : i.layer = .wire) (hwf : i.wellFormed = true) (rest : List Byte) :
    decodeWire (encode i ++ rest) = .ok (i, rest) := by
  cases i with
  | cmdQrd cc => simp [encode, hostOpCode, encodeTail, decodeWire, decodeCmd_qrd]
  | cmdQtd cc => simp [encode, hostOpCode, encodeTail, decodeWire, decodeCmd_qtd]
  | cmdRx cc len => simp [encode, hostOpCode, encodeTail, decodeWire, decodeCmd_rx]
  | cmdTx cc payload =>
    have hlen : (BitVec.ofNat 8 payload.length).toNat = payload.length := by
      have hle : payload.length ≤ 255 := of_decide_eq_true hwf
      rw [BitVec.toNat_ofNat, Nat.mod_eq_of_lt (by omega)]
    simp only [encode, hostOpCode, encodeTail, List.cons_append, decodeWire, decodeCmd_tx, hlen, List.take_left,
      List.drop_left, lt_irrefl, if_false]
  | cmdBaud cc code =>
    have hcode : code.toNat < Config.nBaud := of_decide_eq_true hwf
    simp [encode, hostOpCode, encodeTail, decodeWire, decodeCmd_baud, hcode]
  | _ => cases hi

theorem eq_cmdByte_of_qrd {b : Byte} {cc : Chan} (h : decodeCmd b = .qrd cc) : b = cmdByte 0x1#4 cc :=
  have ⟨hqrd, _⟩ := decodeCmd_inv b cc
  hqrd h

theorem eq_cmdByte_of_rx {b : Byte} {cc : Chan} (h : decodeCmd b = .rx cc) : b = cmdByte 0x2#4 cc :=
  have ⟨_, hrx, _⟩ := decodeCmd_inv b cc
  hrx h

theorem eq_cmdByte_of_qtd {b : Byte} {cc : Chan} (h : decodeCmd b = .qtd cc) : b = cmdByte 0x3#4 cc :=
  have ⟨_, _, hqtd, _⟩ := decodeCmd_inv b cc
  hqtd h

theorem eq_cmdByte_of_tx {b : Byte} {cc : Chan} (h : decodeCmd b = .tx cc) : b = cmdByte 0x4#4 cc :=
  have ⟨_, _, _, htx, _⟩ := decodeCmd_inv b cc
  htx h

theorem eq_cmdByte_of_baud {b : Byte} {cc : Chan} (h : decodeCmd b = .baud cc) : b = cmdByte 0x8#4 cc :=
  have ⟨_, _, _, _, hbaud⟩ := decodeCmd_inv b cc
  hbaud h

/-- A bracket that decodes is the encoding of a well-formed wire command, by the command of its first byte. -/
theorem decodeWire_ok {bs rest : List Byte} {i : Instr} (h : decodeWire bs = .ok (i, rest)) :
    i.layer = .wire ∧ i.wellFormed = true ∧ bs = encode i ++ rest := by
  match bs with
  | [] => cases h
  | [b] =>
    rw [decodeWire] at h
    split at h <;> cases h
  | b :: m :: bs =>
    rw [decodeWire] at h
    split at h
    case h_1 => cases h
    all_goals dsimp only at h
    case h_2 cc hb =>
      split_ifs at h with hfill
      cases h
      rw [eq_cmdByte_of_qrd hb, hfill]
      exact ⟨rfl, rfl, rfl⟩
    case h_3 cc hb =>
      split_ifs at h with hfill
      cases h
      rw [eq_cmdByte_of_qtd hb, hfill]
      exact ⟨rfl, rfl, rfl⟩
    case h_4 cc hb =>
      split_ifs at h with hshort hfill
      cases h
      refine ⟨rfl, rfl, ?_⟩
      rw [eq_cmdByte_of_rx hb]
      change _ = cmdByte 0x2#4 cc :: m :: (List.replicate m.toNat Config.fill ++ bs.drop m.toNat)
      rw [← hfill, List.take_append_drop]
    case h_5 cc hb =>
      split_ifs at h with hshort
      cases h
      have hm : (bs.take m.toNat).length = m.toNat :=
        le_antisymm (List.length_take_le _ _) (Nat.le_of_not_lt hshort)
      refine ⟨rfl, decide_eq_true (hm.trans_le (Nat.le_of_lt_succ m.isLt)), ?_⟩
      rw [eq_cmdByte_of_tx hb]
      change _ = cmdByte 0x4#4 cc :: BitVec.ofNat 8 (bs.take m.toNat).length ::
        (bs.take m.toNat ++ bs.drop m.toNat)
      rw [hm, BitVec.ofNat_toNat, BitVec.setWidth_eq, List.take_append_drop]
    case h_6 cc hb =>
      split_ifs at h with hcode
      cases h
      rw [eq_cmdByte_of_baud hb]
      exact ⟨rfl, decide_eq_true hcode, rfl⟩

/-! ## The obligations -/

/-- Settles O2: each layer reads its own encodings back. -/
theorem decodeOfEncode : Obligations.DecodeOfEncode := by
  unfold Obligations.DecodeOfEncode
  intro i rest hwf
  cases hlayer : i.layer with
  | wire => exact decodeWire_encode hlayer hwf rest
  | host => exact decodeHost_encode hlayer rest

/-- Settles O3: each layer's decoder, inverted arm by arm. -/
theorem decodeAcceptsOnlyEncodings : Obligations.DecodeAcceptsOnlyEncodings := by
  unfold Obligations.DecodeAcceptsOnlyEncodings
  intro l bs i rest h
  cases l with
  | wire => exact decodeWire_ok h
  | host =>
    cases bs with
    | nil => cases h
    | cons op bs =>
      obtain ⟨hop, rfl⟩ := decodeOperands_ok h
      rw [encode_of_hasHostCode hop]
      obtain ⟨hlayer, hwf, -⟩ := hop
      exact ⟨hlayer, hwf, rfl⟩

/-- Settles O1: ten evaluations of the decoder. -/
theorem writtenWordsDecode : Obligations.WrittenWordsDecode := by
  unfold Obligations.WrittenWordsDecode
  decide

/-! ## The command decoder (R97, R98) -/

/-- Bits 3:2 are tested before the opcode, and each of the five opcodes has its arm. -/
theorem decodeCmd_ne_invalid_iff (b : Byte) : decodeCmd b ≠ .invalid ↔
    b.extractLsb' 2 2 = 0 ∧ b.extractLsb' 4 4 ∈ ([0x1, 0x2, 0x3, 0x4, 0x8] : List (BitVec 4)) := by
  simp only [decodeCmd]
  split_ifs <;> simp_all

/-- Settles O5: the table of the twenty command bytes, and their count, by evaluation. -/
theorem commandDecoderTable : Obligations.CommandDecoderTable := by
  unfold Obligations.CommandDecoderTable
  exact ⟨decodeCmd_ne_invalid_iff,
    fun cc => ⟨decodeCmd_qrd cc, decodeCmd_rx cc, decodeCmd_qtd cc, decodeCmd_tx cc, decodeCmd_baud cc⟩,
    by decide +kernel⟩

end Sys2Proof
end

section
/-! The step and its arbiter, and reset (60_exceptions.md sections 4 and 5, 70_reset_and_hazards.md section 1): which request is
granted (R266, R268), what a step with an operation in progress does (R123, R136, R271), and the registers after reset (R34). -/

namespace Sys2Proof.Machine

/-! ## The ports on which a request waits -/

theorem mem_waitingPorts {s : State} {p : Nat} :
    p ∈ waitingPorts s ↔ ∃ r rest, s.ports[p]? = some (r :: rest) := by
  rw [waitingPorts, List.mem_filter, List.mem_range]
  constructor
  · rintro ⟨-, hp⟩
    split at hp
    · exact ⟨_, _, by assumption⟩
    · cases hp
  · rintro ⟨r, rest, hp⟩
    obtain ⟨hlt, -⟩ := List.getElem?_eq_some_iff.mp hp
    exact ⟨hlt, by rw [hp]⟩

/-- A port is granted exactly where one waits, and it is one of those (R268). -/
theorem grantedPort_cases (s : State) :
    (waitingPorts s = [] ∧ grantedPort s = none) ∨ ∃ p ∈ waitingPorts s, grantedPort s = some p := by
  unfold grantedPort
  split
  · exact .inl ⟨by assumption, rfl⟩
  · exact .inr ⟨_, by simp [*], rfl⟩
  · rename_i p q rest hwaiting
    have hlt : Config.freeGrant s.draws % (rest.length + 2) < (p :: q :: rest).length := Nat.mod_lt _ (by omega)
    refine .inr ⟨(p :: q :: rest)[Config.freeGrant s.draws % (rest.length + 2)], ?_, List.getElem?_eq_getElem hlt⟩
    rw [hwaiting]
    exact List.getElem_mem hlt

theorem grantNext_eq_none_iff {s : State} : grantNext s = none ↔ ∀ q ∈ s.ports, q = [] := by
  rcases grantedPort_cases s with ⟨hwaiting, hport⟩ | ⟨p, hp, hport⟩
  · simp only [grantNext, hport, true_iff]
    intro q hq
    obtain ⟨p, hpq⟩ := List.getElem?_of_mem hq
    cases q with
    | nil => rfl
    | cons r rest =>
      have hp := mem_waitingPorts.mpr ⟨r, rest, hpq⟩
      rw [hwaiting] at hp
      cases hp
  · obtain ⟨r, rest, hr⟩ := mem_waitingPorts.mp hp
    simp only [grantNext, hport, takeRequest, hr, reduceCtorEq, false_iff]
    intro hempty
    cases hempty _ (List.mem_of_getElem? hr)

/-! ## The step, by what is in progress -/

theorem serve_of_granted {s s' : State} {r : Request} {i : Instr} (hg : grantNext s = some (r, s'))
    (hr : decodeRequest r = .ok i) : serve s = exec i s' := by
  simp [serve, hg, hr]

theorem serve_of_none {s : State} (hg : grantNext s = none) : serve s = .next s := by
  simp [serve, hg]

theorem step_of_settle {s : State} (hb : s.bstate = .settle) : step s = .next (endSettle s) := by
  simp [step, hb]

theorem step_of_scanning {s : State} {c : Byte} {t0 : Clock} (hb : s.bstate = .idle) (hs : s.session = .scanning t0)
    (hview : s.viewChan[s.sessView.toNat]? = some c) : step s = .next (scanHeader c t0 (scanBudget c s) s) := by
  have hchannel : viewChannel? s s.sessView = some c := hview
  simp [step, hb, hs, resumeScan, hchannel]

/-- A header scan changes no more than an attempt may (R201). -/
theorem scanHeader_frame (c : Byte) (t0 : Clock) (fuel : Nat) (s : State) : AttemptFrame s (scanHeader c t0 fuel s) := by
  obtain ⟨hframe, -⟩ := scanHeader_outcome c t0 fuel s
  exact hframe

theorem attemptFrame_ports {s t : State} (h : AttemptFrame s t) : t.ports = s.ports ∧ t.grant = s.grant := by
  unfold AttemptFrame at h
  rw [h]
  exact ⟨rfl, rfl⟩

end Sys2Proof.Machine

namespace Sys2Proof

open Machine

/-- Settles O8: an idle step serves, and serving runs the instruction of what is granted. -/
theorem stepRunsGrantedInstruction : Obligations.StepRunsGrantedInstruction := by
  unfold Obligations.StepRunsGrantedInstruction
  intro s s' r i hb hs hg hr
  rw [step_of_idle hb hs, serve_of_granted hg hr]

/-- Settles O9: the granted port is one that waits, and its head is taken. -/
theorem grantTakesAnOldestRequest : Obligations.GrantTakesAnOldestRequest := by
  unfold Obligations.GrantTakesAnOldestRequest
  refine fun s => ⟨fun r s' => grantNext_eq, ?_⟩
  rintro ⟨q, hq, hne⟩ hnone
  exact hne (grantNext_eq_none_iff.mp hnone q hq)

/-- Settles O10: of the four things a step can be, only the end of a wait and the continuation of a scan are left. -/
theorem busyStepGrantsNothing : Obligations.BusyStepGrantsNothing := by
  unfold Obligations.BusyStepGrantsNothing
  intro s t hbusy hstep
  rcases step_cases hstep with ⟨-, rfl⟩ | ⟨-, t0, c, -, -, rfl⟩ | ⟨hb, hs, -⟩ | ⟨hb, hs, -⟩
  · exact ⟨rfl, rfl⟩
  · exact attemptFrame_ports (scanHeader_frame c t0 _ s)
  · exact absurd hs (hbusy.resolve_left (not_not_intro hb))
  · exact absurd hs (hbusy.resolve_left (not_not_intro hb))

/-- Settles O11: with every port empty nothing is granted. -/
theorem stepWaitsForRequest : Obligations.StepWaitsForRequest := by
  unfold Obligations.StepWaitsForRequest
  intro s hb hs hempty
  rw [step_of_idle hb hs, serve_of_none (grantNext_eq_none_iff.mpr hempty)]

/-- Settles O12: the step from SETTLE is the end of the wait, whose sample is late enough. -/
theorem settleEndsTwentyMsLater : Obligations.SettleEndsTwentyMsLater := by
  unfold Obligations.SettleEndsTwentyMsLater
  exact fun s hb => ⟨endSettle s, step_of_settle hb, settledAt_late s, rfl⟩

/-- Settles O13: the first case of the step. -/
theorem openBracketHasNoStep : Obligations.OpenBracketHasNoStep := by
  unfold Obligations.OpenBracketHasNoStep
  intro s hb
  rw [step, hb]

/-- Settles O14: the created state, field by field; `settle_t0` is the free constant. -/
theorem resetValues : Obligations.ResetValues := by
  unfold Obligations.ResetValues
  exact fun _ => ⟨Config.settleT0AtReset, rfl⟩

end Sys2Proof
end

section
/-! The rules of the whole machine (10_state.md, 20_memory.md): what an instruction may write (R30, R64), what no step writes
(R31, R32, R71), and the invariants every step keeps (R22 to R29, R44, R121, R252). -/

namespace Sys2Proof.Machine

open Sys2Proof

/-! ## READDIST, said once for its three ways to end -/

/-- Throttled, READDIST answers the stored result; admitted, its attempt ends or its scan still runs (R202 to R210). -/
theorem readDistance_outcome (c : Byte) (s : State) :
    ((elapsed (now s).1 s.lastReadMs).toNat < 100 ∧ readDistance c s = (now s).2.reply (.code s.result)) ∨
      (100 ≤ (elapsed (now s).1 s.lastReadMs).toNat ∧
        (StillScanning (now s).1 (now s).2 (readDistance c s) ∨ Ended (now s).1 (now s).2 (readDistance c s))) := by
  rcases Nat.lt_or_ge (elapsed (now s).1 s.lastReadMs).toNat 100 with hlt | hge
  · exact .inl ⟨hlt, readDistance_of_throttled c hlt⟩
  · obtain ⟨-, hout, -⟩ := attempt_outcome c (now s).1 (now s).2
    rw [readDistance_of_admitted c hge]
    exact .inr ⟨hge, hout⟩

/-- Beside its clock sample READDIST changes no more than an attempt may (R201). -/
theorem readDistance_frame (c : Byte) (s : State) : AttemptFrame (now s).2 (readDistance c s) := by
  rcases Nat.lt_or_ge (elapsed (now s).1 s.lastReadMs).toNat 100 with hlt | hge
  · rw [readDistance_of_throttled c hlt]
    rfl
  · obtain ⟨hframe, -⟩ := attempt_outcome c (now s).1 (now s).2
    rw [readDistance_of_admitted c hge]
    exact hframe

theorem readDistance_released {c : Byte} {s : State} (h : Released s) : Released (readDistance c s) := by
  rcases Nat.lt_or_ge (elapsed (now s).1 s.lastReadMs).toNat 100 with hlt | hge
  · rw [readDistance_of_throttled c hlt]
    exact h
  · rw [readDistance_of_admitted c hge]
    exact attempt_released h

theorem readDistance_qcap (c : Byte) (s : State) : (readDistance c s).periph.qcap = s.periph.qcap := by
  rcases Nat.lt_or_ge (elapsed (now s).1 s.lastReadMs).toNat 100 with hlt | hge
  · rw [readDistance_of_throttled c hlt]
    rfl
  · rw [readDistance_of_admitted c hge]
    exact attempt_qcap _ _ _

/-- An attempt writes neither the mode nor the line (R30). -/
theorem attemptFrame_mode {s t : State} (h : AttemptFrame s t) : t.mode = s.mode ∧ t.modeLine = s.modeLine := by
  unfold AttemptFrame at h
  rw [h]
  exact ⟨rfl, rfl⟩

theorem attemptFrame_mem {s t : State} (h : AttemptFrame s t) : t.mem = s.mem := by
  unfold AttemptFrame at h
  rw [h]

theorem Served.sameSession {s t : State} (h : Served s t) : SameSession s t := by
  rw [h.frame]
  exact ⟨rfl, rfl, rfl, rfl, rfl⟩

theorem Served.mode {s t : State} (h : Served s t) : t.mode = s.mode ∧ t.modeLine = s.modeLine := by
  rw [h.frame]
  exact ⟨rfl, rfl⟩

/-! ## Host memory (R64) -/

theorem onView_next {k : Byte} {s t : State} {run : Byte → Ran} (h : onView k s run = .next t) :
    ∃ c, run c = .next t := by
  unfold onView at h
  split at h
  · exact ⟨_, h⟩
  · cases h

/-- A receive into a host buffer stores in the first `len` bytes of the buffer only (R132). -/
theorem receiveBuffer_memory {c len : Byte} {dst : Ref} {s t : State} (h : receiveBuffer c len dst s = .next t) {x : Nat}
    (hx : ∀ k, k < len.toNat → x ≠ bufferAddr dst k) : Memory.read t.mem x = Memory.read s.mem x := by
  rcases receiveBuffer_cases h with rfl | ⟨cc, -, rfl⟩
  · rfl
  · have hmem := (wireReceive_bracketed cc len s).mem
    rw [State.reply_mem, State.setMem_mem, hmem]
    refine read_writeBuffer_other _ _ _ _ _ fun j hj => ?_
    rw [wireReceive_length] at hj
    simpa using hx j hj

/-! ## The configuration (R31, R32) -/

/-- The configuration of the block, the host's buffer list, the kind of environment and the peripheral's capacity. -/
def SameConfiguration (s t : State) : Prop :=
  t.viewChan = s.viewChan ∧ t.sessView = s.sessView ∧ t.buffers = s.buffers ∧ t.env = s.env ∧
    t.periph.qcap = s.periph.qcap

theorem attemptFrame_configuration {s t : State} (h : AttemptFrame s t) (hqcap : t.periph.qcap = s.periph.qcap) :
    SameConfiguration s t := by
  unfold AttemptFrame at h
  refine ⟨?_, ?_, ?_, ?_, hqcap⟩ <;> rw [h]

theorem Served.configuration {s t : State} (h : Served s t) : SameConfiguration s t := by
  refine ⟨?_, ?_, ?_, ?_, h.qcap⟩ <;> rw [h.frame]

theorem exec_configuration {i : Instr} {s t : State} (h : exec i s = .next t) : SameConfiguration s t := by
  rcases exec_cases h with hserved | ⟨b, -, rfl⟩ | ⟨-, c, -, rfl⟩
  · exact hserved.configuration
  · exact ⟨rfl, rfl, rfl, rfl, rfl⟩
  · have hframe := attemptFrame_configuration (readDistance_frame c s) (readDistance_qcap c s)
    exact hframe

/-! ## The results (R71) -/

/-- `t` returned at most one result more than `s`. -/
def Replied (s t : State) : Prop := ∃ replies : List Reply, t.returned = s.returned ++ replies ∧ replies.length ≤ 1

theorem replied_of_same {s t : State} (h : t.returned = s.returned) : Replied s t := ⟨[], by simp [h], by simp⟩

theorem replied_of_returns {s t : State} {r : Result} (h : Returns s t r) : Replied s t := ⟨_, h, by simp⟩

theorem replied_of_attempt {t0 : Clock} {s t : State} (h : StillScanning t0 s t ∨ Ended t0 s t) : Replied s t := by
  rcases h with ⟨-, -, hreturned⟩ | ⟨-, -, hreturns, -⟩
  · exact replied_of_same hreturned
  · exact replied_of_returns hreturns

theorem exec_replied {i : Instr} {s t : State} (h : exec i s = .next t) : Replied s t := by
  rcases exec_cases h with hserved | ⟨b, -, rfl⟩ | ⟨-, c, -, rfl⟩
  · obtain ⟨r, hreturns⟩ := hserved.returns
    exact replied_of_returns hreturns
  · exact ⟨_, rfl, by simp⟩
  · rcases readDistance_outcome c s with ⟨-, hreply⟩ | ⟨-, hattempt⟩
    · rw [hreply]
      exact ⟨_, rfl, by simp⟩
    · exact replied_of_attempt hattempt

theorem step_replied {s t : State} (h : step s = .next t) : Replied s t := by
  rcases step_cases h with ⟨-, rfl⟩ | ⟨-, t0, c, -, -, rfl⟩ | ⟨-, -, -, rfl⟩ | ⟨-, -, p, ps, i, hexec⟩
  · exact replied_of_same rfl
  · obtain ⟨-, hscan, -⟩ := scanHeader_outcome c t0 (scanBudget c s) s
    exact replied_of_attempt hscan
  · exact replied_of_same rfl
  · have hreplied := exec_replied hexec
    exact hreplied

/-! ## The canonical form of host memory -/

theorem exec_mem_wf {i : Instr} {s t : State} (h : exec i s = .next t) (hwf : Memory.wf s.mem = true) :
    Memory.wf t.mem = true := by
  rcases exec_cases h with hserved | ⟨b, -, rfl⟩ | ⟨-, c, -, rfl⟩
  · exact hserved.canonical hwf
  · exact hwf
  · rw [attemptFrame_mem (readDistance_frame c s)]
    exact hwf

/-! ## The invariant of the registers -/

theorem decodedDistance_ge (hi lo : Byte) : Config.minDistMm ≤ decodedDistance hi lo := by
  unfold decodedDistance
  split_ifs with h
  · exact BitVec.le_refl _
  · exact BitVec.not_lt.mp h

end Sys2Proof.Machine

namespace Sys2Proof

open Machine

namespace RegisterInv

/-- A change that writes no session register, and leaves the line at the level of the mode. -/
theorem of_sameSession {s t : State} (h : RegisterInv s) (hreleased : Released t) (hsame : SameSession s t)
    (hline : t.modeLine = t.mode) : RegisterInv t := by
  obtain ⟨hstatus, hresult, hdistance, hread, hsuccess⟩ := hsame
  refine ⟨hreleased, ?_, ?_, ?_, ?_, hline⟩
  · rw [hstatus, hresult]
    exact h.codes
  · rw [hdistance]
    exact h.distance
  · rw [hstatus, hdistance, hread, hsuccess]
    exact h.untouched
  · rw [hresult, hdistance, hread, hsuccess]
    exact h.success

/-- The failures of R203 to R207 leave a legal pair, which is neither that of reset nor a success. -/
theorem codes_of_failure : ∀ {st res : Code}, (st, res) ∈ [((2 : Code), (4 : Code)), (3, 3), (4, 4), (1, 2)] →
    legalCodes st res = true ∧ st ≠ Config.stNone ∧ res ≠ Config.resSuccess := by
  decide

/-- An attempt that has ended leaves one of the outcomes of R203 to R208. -/
theorem of_ended {s t : State} {t0 : Clock} (h : RegisterInv s) (hreleased : Released t) (hended : Ended t0 s t)
    (hline : t.modeLine = t.mode) : RegisterInv t := by
  obtain ⟨-, hread, -, ⟨hcodes, hdistance, -⟩ | ⟨hstatus, hresult, hsuccess, hi, lo, hdistance⟩⟩ := hended
  · obtain ⟨hlegal, hstatus, hresult⟩ := codes_of_failure hcodes
    refine ⟨hreleased, hlegal, ?_, fun h0 => absurd h0 hstatus, fun h1 => absurd h1 hresult, hline⟩
    rw [hdistance]
    exact h.distance
  · have hmin : Config.minDistMm ≤ t.distance := hdistance ▸ decodedDistance_ge hi lo
    refine ⟨hreleased, by rw [hstatus, hresult]; rfl, .inr hmin, fun h0 => ?_, fun _ => ⟨?_, hmin⟩, hline⟩
    · rw [hstatus] at h0
      cases h0
    · rw [hsuccess, hread]

/-- A header scan or an attempt keeps the invariant, wherever its step stops. -/
theorem of_attempt {s t : State} {t0 : Clock} (h : RegisterInv s) (hreleased : Released t) (hframe : AttemptFrame s t)
    (hout : StillScanning t0 s t ∨ Ended t0 s t) : RegisterInv t := by
  obtain ⟨hmode, hmodeLine⟩ := attemptFrame_mode hframe
  have hline : t.modeLine = t.mode := by rw [hmodeLine, hmode, h.line]
  rcases hout with ⟨-, hsame, -⟩ | hended
  · exact h.of_sameSession hreleased hsame hline
  · exact h.of_ended hreleased hended hline

theorem of_exec {i : Instr} {s t : State} (h : RegisterInv s) (hexec : exec i s = .next t) : RegisterInv t := by
  rcases exec_cases hexec with hserved | ⟨b, -, rfl⟩ | ⟨-, c, -, rfl⟩
  · obtain ⟨hmode, hmodeLine⟩ := hserved.mode
    exact h.of_sameSession (hserved.released h.released) hserved.sameSession (by rw [hmodeLine, hmode, h.line])
  · exact h.of_sameSession h.released ⟨rfl, rfl, rfl, rfl, rfl⟩ rfl
  · have hsampled : RegisterInv (now s).2 := h.of_sameSession h.released ⟨rfl, rfl, rfl, rfl, rfl⟩ h.line
    have hreleased := readDistance_released (c := c) h.released
    rcases readDistance_outcome c s with ⟨-, hreply⟩ | ⟨-, hattempt⟩
    · rw [hreply] at hreleased ⊢
      exact hsampled.of_sameSession hreleased ⟨rfl, rfl, rfl, rfl, rfl⟩ h.line
    · exact hsampled.of_attempt hreleased (readDistance_frame c s) hattempt

/-- The host's requests and buffers are no register of the block (R45, R266). -/
theorem host {s : State} (h : RegisterInv s) (ports : List (List Request)) (mem : Memory) (buffers : List HostBuffer) :
    RegisterInv { s with ports := ports, mem := mem, buffers := buffers } :=
  h.of_sameSession h.released ⟨rfl, rfl, rfl, rfl, rfl⟩ h.line

end RegisterInv

/-- Settles O57: between two steps no wait runs, so the step is a scan's, none, or an instruction's. -/
theorem stepKeepsRegisterInv : Obligations.StepKeepsRegisterInv := by
  unfold Obligations.StepKeepsRegisterInv
  intro s t hinv hstep
  rcases step_cases hstep with ⟨hb, -⟩ | ⟨-, t0, c, -, -, rfl⟩ | ⟨-, -, -, rfl⟩ | ⟨-, -, p, ps, i, hexec⟩
  · obtain ⟨-, hidle, -⟩ := hinv.released
    rw [hidle] at hb
    cases hb
  · obtain ⟨hframe, hout, -⟩ := scanHeader_outcome c t0 (scanBudget c s) s
    exact hinv.of_attempt (scanHeader_released hinv.released) hframe hout
  · exact hinv
  · have hgranted : RegisterInv { s with ports := ps, grant := p, draws := s.draws + 1 } :=
      hinv.of_sameSession hinv.released ⟨rfl, rfl, rfl, rfl, rfl⟩ hinv.line
    exact hgranted.of_exec hexec

/-- Settles O56: the registers of R34, one clause after another. -/
theorem registerInvAfterReset : Obligations.RegisterInvAfterReset := by
  unfold Obligations.RegisterInvAfterReset
  exact fun u hoff => ⟨⟨rfl, rfl, hoff⟩, rfl, .inl rfl, fun _ => ⟨rfl, rfl, rfl⟩, (nomatch ·), rfl⟩

/-- Settles O52: an instruction that is neither is served, and a served one writes no session register and no mode. -/
theorem sessionRegisterWriters : Obligations.SessionRegisterWriters := by
  unfold Obligations.SessionRegisterWriters
  intro i s t hexec
  rcases exec_cases hexec with hserved | ⟨b, rfl, rfl⟩ | ⟨rfl, c, -, rfl⟩
  · exact ⟨fun _ => hserved.sameSession, fun _ => hserved.mode⟩
  · exact ⟨fun _ => ⟨rfl, rfl, rfl, rfl, rfl⟩, fun hne => absurd rfl (hne b)⟩
  · have hmode := attemptFrame_mode (readDistance_frame c s)
    exact ⟨fun hne => absurd rfl hne, fun _ => hmode⟩

/-- Settles O53: RXN and READN store in their buffer's first bytes, and no other instruction stores. -/
theorem hostMemoryWriters : Obligations.HostMemoryWriters := by
  unfold Obligations.HostMemoryWriters
  intro i s t hexec x hx
  by_cases hstores : ∀ c len dst, i ≠ .rxn c len dst ∧ i ≠ .readn c len dst
  · rw [exec_mem hexec hstores]
  · push Not at hstores
    obtain ⟨c, len, dst, hi⟩ := hstores
    by_cases hrxn : i = .rxn c len dst
    · subst hrxn
      exact receiveBuffer_memory hexec (hx c len dst (.inl rfl))
    · obtain rfl := hi hrxn
      obtain ⟨c', hreceive⟩ := onView_next hexec
      exact receiveBuffer_memory hreceive (hx c len dst (.inr rfl))

/-- Settles O54: the frames of a step's four cases hold the configuration. -/
theorem configurationNeverWritten : Obligations.ConfigurationNeverWritten := by
  unfold Obligations.ConfigurationNeverWritten
  intro s t hstep
  rcases step_cases hstep with ⟨-, rfl⟩ | ⟨-, t0, c, -, -, rfl⟩ | ⟨-, -, -, rfl⟩ | ⟨-, -, p, ps, i, hexec⟩
  · exact ⟨rfl, rfl, rfl, rfl, rfl⟩
  · exact attemptFrame_configuration (scanHeader_frame c t0 _ s) (scanHeader_qcap _ _ _ _)
  · exact ⟨rfl, rfl, rfl, rfl, rfl⟩
  · have hconfiguration := exec_configuration hexec
    exact hconfiguration

/-- Settles O55: a step appends whole brackets, and at most one reply. -/
theorem historyOnlyGrows : Obligations.HistoryOnlyGrows := by
  unfold Obligations.HistoryOnlyGrows
  intro s t hstep
  obtain ⟨events, hemits, -⟩ := step_whole hstep
  exact ⟨⟨events, hemits⟩, step_replied hstep⟩

/-- Settles O59: only a served instruction stores, and its stores keep the form. -/
theorem stepKeepsMemoryCanonical : Obligations.StepKeepsMemoryCanonical := by
  unfold Obligations.StepKeepsMemoryCanonical
  intro s t hwf hstep
  rcases step_cases hstep with ⟨-, rfl⟩ | ⟨-, t0, c, -, -, rfl⟩ | ⟨-, -, -, rfl⟩ | ⟨-, -, p, ps, i, hexec⟩
  · exact hwf
  · rw [attemptFrame_mem (scanHeader_frame c t0 _ s)]
    exact hwf
  · exact hwf
  · exact exec_mem_wf hexec hwf

/-- Settles O60: the three invariants hold after reset (O56), and every step keeps them (O57, O58, O59); what the host does
touches no register and no event. -/
theorem runsKeepInvariants : Obligations.RunsKeepInvariants := by
  unfold Obligations.RunsKeepInvariants
  intro u t hoff hmem hrun
  induction hrun with
  | start => exact ⟨registerInvAfterReset u hoff, rfl, hmem⟩
  | step _ hstep ih =>
    obtain ⟨hinv, hbrackets, hwf⟩ := ih
    exact ⟨stepKeepsRegisterInv _ _ hinv hstep, stepKeepsTranscriptBracketed _ _ hbrackets hstep,
      stepKeepsMemoryCanonical _ _ hwf hstep⟩
  | host ports mem buffers _ hwf ih =>
    obtain ⟨hinv, hbrackets, -⟩ := ih
    exact ⟨hinv.host ports mem buffers, hbrackets, hwf⟩

end Sys2Proof
end

section
/-! The wire transactions run as requests of their own (R124 to R128), and the bridge operations that receive, transmit and set
the baud (R132 to R135): one lemma for each transaction with its reply, used by both. -/

namespace Sys2Proof.Machine

open Sys2Proof

/-! ## A transmit and a set-baud with their replies -/

/-- A transmit with its reply: one bracket with the payload, which TQ takes where it has room (R127). -/
theorem wireTransmit_replied (cc : Chan) {payload : List Byte} (hlen : payload.length ≤ 255) (s : State) :
    ∃ a b ss t, (wireTransmit cc payload s).reply .nothing = t ∧ ss.length = payload.length ∧
      Emits s t ([.sel, .xfer (cmdByte 0x4#4 cc) a, .xfer (BitVec.ofNat 8 payload.length) b] ++
        sentWith payload ss ++ [.desel]) ∧
      Returns s t .nothing ∧ BusFrame s t ∧ SameMemory s t ∧
      (TxRoom s cc payload.length → (t.periph.get cc).tq = (channelAtSelect s cc).tq ++ payload) ∧
      (t.periph.get cc).rq = (channelAtSelect s cc).rq ∧ (t.periph.get cc).baud = (channelAtSelect s cc).baud ∧
      ∀ x, x ≠ cc → t.periph.get x = channelAtSelect s x := by
  obtain ⟨a, b, ss, hss, hemits⟩ := wireTransmit_emits cc payload s
  obtain ⟨htq, hrq, hbaud, hother, -⟩ := wireTransmit_spec cc payload s hlen
  have hbracket := wireTransmit_bracketed cc payload s
  have hframe := hbracket.frame .nothing
  exact ⟨a, b, ss, _, rfl, hss, hemits, hbracket.returns _, hframe, busFrame_memory hframe, htq, hrq, hbaud, hother⟩

theorem setBaudCode_val (old : Fin 10) {code : Byte} (h : code.toNat < 10) :
    (setBaudCode old code).val = code.toNat := by
  simp [setBaudCode, h]

/-- A set-baud with its reply: the bracket and the wait, BAUD the code, the clock at least 20 ms on (R128, R136). -/
theorem wireBaud_replied (cc : Chan) {code : Byte} (hcode : code.toNat < 10) (s : State) :
    ∃ a b t, (wireBaud cc code s).reply .nothing = t ∧
      Emits s t [.sel, .xfer (cmdByte 0x8#4 cc) a, .xfer code b, .desel, .wait 20] ∧
      Returns s t .nothing ∧ SettleFrame s t ∧ SameMemory s t ∧
      t.settleT0 = s.clock + clockAdvance s.env (s.draws + 3) ∧ 20 ≤ (elapsed t.clock t.settleT0).toNat ∧
      (t.periph.get cc).baud.val = code.toNat ∧
      (t.periph.get cc).rq = (channelAtSelect s cc).rq ∧ (t.periph.get cc).tq = (channelAtSelect s cc).tq ∧
      ∀ x, x ≠ cc → t.periph.get x = channelAtSelect s x := by
  obtain ⟨a, b, hemits⟩ := wireBaud_emits cc code s
  obtain ⟨hself, hother, -, hsettle, hlate⟩ := wireBaud_spec cc code s
  refine ⟨a, b, _, rfl, hemits, rfl, rfl, fun _ => rfl, hsettle, hlate, ?_, ?_, ?_, hother⟩
  · rw [State.reply_periph, hself]
    exact setBaudCode_val _ hcode
  · rw [State.reply_periph, hself]
  · rw [State.reply_periph, hself]

theorem queryTransmitDepth_bracketed {c : Byte} (hc : c.toNat < 4) (s : State) :
    Bracketed s (queryTransmitDepth c s).2 := by
  rw [queryTransmitDepth_of_lt hc]
  exact wireQuery_bracketed _ _ s

/-! ## Host buffers (R64) -/

theorem readBuffer_eq_map (m : Memory) (ref : Ref) (k n : Nat) :
    readBuffer m ref k n = (List.range n).map fun j => Memory.read m (bufferAddr ref (k + j)) := by
  induction n generalizing k with
  | zero => rfl
  | succ n ih =>
    rw [readBuffer, ih, List.range_succ_eq_map]
    simp [Nat.add_assoc, Nat.add_comm 1]

theorem bufferHolds_of_short {s : State} {ref : Ref} {len : Byte} (h : bufferSize s ref < len.toNat) :
    bufferHolds s ref len = false :=
  decide_eq_false (Nat.not_le.mpr h)

/-! ## The bridge operations on a channel of 0..3 -/

theorem receiveBuffer_of_lt {c len : Byte} {dst : Ref} {s : State} (hc : c.toNat < 4)
    (hbuf : bufferHolds s dst len = true) :
    receiveBuffer c len dst s = .next (((wireReceive (c.extractLsb' 0 2) len s).2.setMem
      (writeBuffer s.mem dst 0 (wireReceive (c.extractLsb' 0 2) len s).1)).reply .nothing) := by
  simp [receiveBuffer, channel?_of_lt hc, hbuf, (wireReceive_bracketed (c.extractLsb' 0 2) len s).mem]

theorem receiveBuffer_of_short {c len : Byte} {dst : Ref} {s : State} (hc : c.toNat < 4)
    (hbuf : bufferHolds s dst len = false) : receiveBuffer c len dst s = .refused (.bufferTooShort dst len) := by
  simp [receiveBuffer, channel?_of_lt hc, hbuf]

theorem transmitByte_of_lt {c : Byte} (hc : c.toNat < 4) (v : Byte) (s : State) :
    transmitByte c v s = wireTransmit (c.extractLsb' 0 2) [v] s := by
  simp [transmitByte, channel?_of_lt hc]

theorem transmitBuffer_of_lt {c len : Byte} {src : Ref} {s : State} (hc : c.toNat < 4)
    (hbuf : bufferHolds s src len = true) :
    transmitBuffer c len src s =
      .next ((wireTransmit (c.extractLsb' 0 2) (readBuffer s.mem src 0 len.toNat) s).reply .nothing) := by
  simp [transmitBuffer, channel?_of_lt hc, hbuf]

theorem transmitBuffer_of_short {c len : Byte} {src : Ref} {s : State} (hc : c.toNat < 4)
    (hbuf : bufferHolds s src len = false) : transmitBuffer c len src s = .refused (.bufferTooShort src len) := by
  simp [transmitBuffer, channel?_of_lt hc, hbuf]

theorem setBaudRate_of_lt {c code : Byte} (hc : c.toNat < 4) (hcode : code.toNat < 10) (s : State) :
    setBaudRate c code s = wireBaud (c.extractLsb' 0 2) code s := by
  simp [setBaudRate, channel?_of_lt hc, hcode]

theorem setBaudRate_of_reserved (c : Byte) {code : Byte} (hcode : 10 ≤ code.toNat) (s : State) :
    setBaudRate c code s = s := by
  unfold setBaudRate
  split
  · exact if_neg (Nat.not_lt.mpr hcode)
  · rfl

/-- The frame of a receive whose bytes are then stored (R132). -/
theorem Bracketed.stored_frame {s u : State} (h : Bracketed s u) (m : Memory) (r : Result) :
    BufferFrame s ((u.setMem m).reply r) ∧ Returns s ((u.setMem m).reply r) r := by
  unfold Bracketed at h
  rw [h]
  exact ⟨rfl, rfl⟩

end Sys2Proof.Machine

namespace Sys2Proof

open Machine

/-! ## The wire transactions -/

/-- Settles O16: the two depth queries with their replies. -/
theorem wireQueriesComplete : Obligations.WireQueriesComplete := by
  unfold Obligations.WireQueriesComplete
  intro s cc
  obtain ⟨a, n, t, hreply, hspec⟩ := wireQuery_replied s (command_next_qrd cc)
  obtain ⟨a', n', t', hreply', hspec'⟩ := wireQuery_replied s (command_next_qtd cc)
  exact ⟨⟨a, n, t, congrArg _ hreply, hspec⟩, ⟨a', n', t', congrArg _ hreply', hspec'⟩⟩

/-- Settles O17: the receive bracket and its reply, with what it takes from RQ. -/
theorem wireReceiveTakesOldestBytes : Obligations.WireReceiveTakesOldestBytes := by
  unfold Obligations.WireReceiveTakesOldestBytes
  intro s cc len
  obtain ⟨a, b, hemits⟩ := wireReceive_emits cc len s
  obtain ⟨htake, hself, hother, -⟩ := wireReceive_spec cc len s
  have hbracket := wireReceive_bracketed cc len s
  have hframe := hbracket.frame (.bytes (wireReceive cc len s).1)
  exact ⟨a, b, _, _, rfl, hemits, hbracket.returns _, hframe, busFrame_memory hframe, wireReceive_length cc len s, htake,
    hself, hother⟩

/-- Settles O18: the transmit bracket and its reply, for a payload the length byte can carry. -/
theorem wireTransmitAppendsPayload : Obligations.WireTransmitAppendsPayload := by
  unfold Obligations.WireTransmitAppendsPayload
  intro s cc payload hlen
  obtain ⟨a, b, ss, t, hreply, hspec⟩ := wireTransmit_replied cc hlen s
  have hexec : exec (.cmdTx cc payload) s = .next t := (if_pos hlen).trans (congrArg _ hreply)
  exact ⟨a, b, ss, t, hexec, hspec⟩

/-- Settles O19: the set-baud bracket with its wait and reply, for a code the block may send. -/
theorem wireBaudWritesBaud : Obligations.WireBaudWritesBaud := by
  unfold Obligations.WireBaudWritesBaud
  intro s cc code hcode
  obtain ⟨a, b, t, hreply, hemits, hreturns, hframe, hmem, -, hspec⟩ := wireBaud_replied cc hcode s
  have hexec : exec (.cmdBaud cc code) s = .next t := (if_pos hcode).trans (congrArg _ hreply)
  exact ⟨a, b, t, hexec, hemits, hreturns, hframe, hmem, hspec⟩

/-- Settles O20: both operations test their operand before the bracket. -/
theorem illFormedBracketsRefused : Obligations.IllFormedBracketsRefused := by
  unfold Obligations.IllFormedBracketsRefused
  exact fun s cc payload code => ⟨fun hlen => if_neg (Nat.not_le.mpr hlen), fun hcode => if_neg (Nat.not_lt.mpr hcode)⟩

/-- Settles O21: the four answers of R264, each from the transaction it is the answer of. -/
theorem referencePeripheralAnswers : Obligations.ReferencePeripheralAnswers := by
  unfold Obligations.ReferencePeripheralAnswers
  intro s c cc henv hc
  obtain ⟨hlt, hcc⟩ := channel?_eq_some hc
  obtain ⟨hrxDepth, -⟩ := queryReceiveDepth_reference henv hc
  obtain ⟨htxDepth, -⟩ := queryTransmitDepth_reference henv hc
  obtain ⟨hbyte, hchannel⟩ := receiveByte_reference henv hc
  refine ⟨⟨_, rfl, ?_⟩, ⟨_, rfl, ?_⟩, ⟨_, rfl, ?_, ?_⟩, fun v hfull => ⟨_, rfl, ?_⟩⟩
  · change Returns s _ (.byte (depthByte _))
    rw [← hrxDepth]
    exact (queryReceiveDepth_bracketed hlt s).returns _
  · change Returns s _ (.byte (depthByte _))
    rw [← htxDepth]
    exact (queryTransmitDepth_bracketed hlt s).returns _
  · rw [← hbyte]
    exact (receiveByte_bracketed hlt s).returns _
  · rw [State.reply_periph, hchannel]
  · rw [State.reply_periph, transmitByte_of_lt hlt, ← hcc]
    exact wireTransmit_reference_full cc v henv hfull

/-! ## The bridge operations -/

/-- Settles O25: the receive bracket, and the stores of its bytes at their indices. -/
theorem rxnCompletes : Obligations.RxnCompletes := by
  unfold Obligations.RxnCompletes
  refine fun s c len dst => ⟨fun hlt hbuf => ?_, fun hge => receiveBuffer_of_ge hge len dst s⟩
  obtain ⟨a, b, hemits⟩ := wireReceive_emits (c.extractLsb' 0 2) len s
  rw [cmdByte_of_channel? (channel?_of_lt hlt)] at hemits
  obtain ⟨htake, hself, hother, -⟩ := wireReceive_spec (c.extractLsb' 0 2) len s
  have hlen := wireReceive_length (c.extractLsb' 0 2) len s
  have hexec : exec (.rxn c len dst) s = _ := receiveBuffer_of_lt hlt hbuf
  obtain ⟨hframe, hreturns⟩ := (wireReceive_bracketed (c.extractLsb' 0 2) len s).stored_frame
    (writeBuffer s.mem dst 0 (wireReceive (c.extractLsb' 0 2) len s).1) .nothing
  refine ⟨a, b, _, _, hexec, hemits, hreturns, hframe, hlen, fun k hk => ?_,
    fun x hx => receiveBuffer_memory hexec hx, htake, hself, hother⟩
  have hstored := read_writeBuffer_same s.mem dst 0 (wireReceive (c.extractLsb' 0 2) len s).1 k (hlen.symm ▸ hk)
  rw [Nat.zero_add] at hstored
  exact (List.getElem?_eq_getElem _).trans (congrArg some hstored.symm)

/-- Settles O26: a transmit of the one byte. -/
theorem txbCompletes : Obligations.TxbCompletes := by
  unfold Obligations.TxbCompletes
  refine fun s c v => ⟨fun hlt => ?_, fun hge => execTxb_of_ge hge v s⟩
  obtain ⟨a, b, ss, t, hreply, hss, hspec⟩ :=
    wireTransmit_replied (c.extractLsb' 0 2) (payload := [v]) (by simp) s
  rw [cmdByte_of_channel? (channel?_of_lt hlt)] at hspec
  obtain ⟨r, rfl⟩ := List.length_eq_one_iff.mp hss
  have hexec : exec (.txb c v) s = .next t := by
    change execTxb c v s = _
    rw [execTxb, transmitByte_of_lt hlt, hreply]
  exact ⟨a, b, r, t, hexec, hspec⟩

/-- Settles O27: a transmit of the buffer's first `len` bytes. -/
theorem txnCompletes : Obligations.TxnCompletes := by
  unfold Obligations.TxnCompletes
  refine fun s c len src => ⟨fun hlt hbuf => ?_, fun hge => transmitBuffer_of_ge hge len src s⟩
  have hpayload := readBuffer_eq_map s.mem src 0 len.toNat
  have hlen := readBuffer_length s.mem src 0 len.toNat
  obtain ⟨a, b, ss, t, hreply, hss, hspec⟩ :=
    wireTransmit_replied (c.extractLsb' 0 2) (hlen.trans_le (Nat.le_of_lt_succ len.isLt)) s
  have hexec : exec (.txn c len src) s = .next t := by
    change transmitBuffer c len src s = _
    rw [transmitBuffer_of_lt hlt hbuf, hreply]
  rw [cmdByte_of_channel? (channel?_of_lt hlt), hlen, BitVec.ofNat_toNat, BitVec.setWidth_eq, hpayload] at hspec
  simp only [Nat.zero_add] at hspec
  exact ⟨a, b, ss, t, hexec, hss.trans hlen, hspec⟩

/-- Settles O28: the set-baud transaction where channel and code are in range, and nothing where one is not. -/
theorem setBaudCompletes : Obligations.SetBaudCompletes := by
  unfold Obligations.SetBaudCompletes
  refine fun s c code => ⟨fun hlt hcode => ?_, ?_⟩
  · obtain ⟨a, b, t, hreply, hspec⟩ := wireBaud_replied (c.extractLsb' 0 2) hcode s
    rw [cmdByte_of_channel? (channel?_of_lt hlt)] at hspec
    have hexec : exec (.setBaud c code) s = .next t := by
      change execSetBaud c code s = _
      rw [execSetBaud, setBaudRate_of_lt hlt hcode, hreply]
    exact ⟨a, b, t, hexec, hspec⟩
  · rintro (hge | hcode)
    · exact execSetBaud_of_ge hge code s
    · change execSetBaud c code s = _
      rw [execSetBaud, setBaudRate_of_reserved c hcode]
      rfl

/-- Settles O30: the size is tested as soon as the channel exists. -/
theorem shortBufferRefused : Obligations.ShortBufferRefused := by
  unfold Obligations.ShortBufferRefused
  intro s c len r hlt hshort
  have hbuf := bufferHolds_of_short hshort
  exact ⟨receiveBuffer_of_short hlt hbuf, transmitBuffer_of_short hlt hbuf⟩

/-! ## The view operations (42_channel_view.md) -/

/-- Settles O32: AVAIL, READ, WRITE and BEGIN are QRD, RXB, TXB and SETBAUD on the view's channel (O31). -/
theorem viewByteOperationsComplete : Obligations.ViewByteOperationsComplete := by
  unfold Obligations.ViewByteOperationsComplete
  intro s k v c rate hview hlt
  obtain ⟨havail, hread, -, hwrite, -, hbegin⟩ :=
    (viewOperationsAreBridgeOperations s k v 0 0 rate).1 c hview
  rw [havail, hread, hwrite, hbegin]
  have hcode : (rate2code rate).toNat < 10 := (rate2code_toNat_lt rate).trans (by decide)
  refine ⟨?_, ?_, ?_, ?_⟩
  · obtain ⟨a, n, t, hexec, hemits, hreturns, hframe, hmem, -⟩ := (qrdCompletes s c).1 hlt
    exact ⟨a, n, t, hexec, hemits, hreturns, hframe, hmem⟩
  · obtain ⟨a, b, r, t, hexec, hemits, hreturns, hframe, hmem, -⟩ := (rxbCompletes s c).1 hlt
    exact ⟨a, b, r, t, hexec, hemits, hreturns, hframe, hmem⟩
  · obtain ⟨a, b, r, t, hexec, hemits, hreturns, hframe, hmem, -⟩ := (txbCompletes s c v).1 hlt
    exact ⟨a, b, r, t, hexec, hemits, hreturns, hframe, hmem⟩
  · obtain ⟨a, b, t, hexec, hemits, hreturns, hframe, hmem, -, hlate, -⟩ :=
      (setBaudCompletes s c (rate2code rate)).1 hlt hcode
    exact ⟨a, b, t, hexec, hemits, hreturns, hframe, hmem, hlate⟩

/-- Settles O33: READN and WRITEN are RXN and TXN on the view's channel (O31). -/
theorem viewBufferOperationsComplete : Obligations.ViewBufferOperationsComplete := by
  unfold Obligations.ViewBufferOperationsComplete
  intro s k len c r hview hlt hbuf
  obtain ⟨-, -, hreadn, -, hwriten, -⟩ := (viewOperationsAreBridgeOperations s k 0 len r 0).1 c hview
  rw [hreadn, hwriten]
  constructor
  · obtain ⟨a, b, bs, t, hexec, hemits, hreturns, hframe, hlen, hstored, hkept, -⟩ :=
      (rxnCompletes s c len r).1 hlt hbuf
    exact ⟨a, b, bs, t, hexec, hemits, hreturns, hframe, hlen, hstored, hkept⟩
  · obtain ⟨a, b, ss, t, hexec, hss, hemits, hreturns, hframe, hmem, -⟩ := (txnCompletes s c len r).1 hlt hbuf
    exact ⟨a, b, ss, t, hexec, hss, hemits, hreturns, hframe, hmem⟩

end Sys2Proof
end

section
/-! READDIST in every environment (43_sensor_session.md sections 2 and 4): the outcomes of a call (R201 to R210), a scan continued
by later steps (R204, R266), and the transcript of a whole attempt (R221). -/

namespace Sys2Proof.Machine

open Sys2Proof

/-! ## Registers that decide what an attempt leaves -/

/-- What an attempt leaves depends on the state it is reckoned from only through the distance, the success timestamp, the
results and the granted port. -/
theorem attemptLeaves_congr {t0 : Clock} {e : AttemptEnd} {s t u : State} (hsame : SameSession s t)
    (hreturned : t.returned = s.returned) (hgrant : t.grant = s.grant) (k : AttemptLeaves t0 e t u) :
    AttemptLeaves t0 e s u := by
  obtain ⟨-, -, hdistance, -, hsuccess⟩ := hsame
  obtain ⟨hread, hreturns, hend⟩ := k
  refine ⟨hread, ?_, ?_⟩
  · unfold Returns at *
    rw [hreturns, hreturned, hgrant]
  · rwa [hdistance, hsuccess] at hend

theorem sameSession_trans {s t u : State} (h : SameSession s t) (k : SameSession t u) : SameSession s u := by
  obtain ⟨h1, h2, h3, h4, h5⟩ := h
  obtain ⟨k1, k2, k3, k4, k5⟩ := k
  exact ⟨k1.trans h1, k2.trans h2, k3.trans h3, k4.trans h4, k5.trans h5⟩

/-! ## An attempt begun -/

/-- The first bracket of an attempt on a channel 0..3 releases the bus, whatever the state before it (R121). -/
theorem queryReceiveDepth_released {c : Byte} (hc : c.toNat < 4) (s : State) : Released (queryReceiveDepth c s).2 := by
  have hbracket := queryReceiveDepth_bracketed hc s
  obtain ⟨hperiph, -⟩ := wireQuery_spec s (command_next_qrd (c.extractLsb' 0 2))
  unfold Bracketed at hbracket
  refine ⟨?_, ?_, ?_⟩
  · rw [hbracket]
  · rw [hbracket]
  · rw [queryReceiveDepth_of_lt hc, hperiph]

theorem attempt_released_of_lt {c : Byte} (hc : c.toNat < 4) (t0 : Clock) (s : State) : Released (attempt c t0 s) := by
  have hquery := queryReceiveDepth_released hc s
  rcases Nat.lt_or_ge (queryReceiveDepth c s).1.toNat 4 with hshort | henough
  · rw [attempt_of_short t0 hshort]
    exact hquery
  · rw [attempt_of_enough t0 henough]
    exact scanHeader_released hquery

/-- An attempt's first step by its transcript: the scan still runs behind the first bracket, or the attempt has ended as its
transcript says (R203 to R210, R221). -/
theorem attempt_events {c : Byte} (hc : c.toNat < 4) (t0 : Clock) (s : State) :
    (StillScanning t0 s (attempt c t0 s) ∧ ∃ es, AttemptBegun c es ∧ Emits s (attempt c t0 s) es) ∨
      ((attempt c t0 s).session = .idle ∧ ∃ e es, AttemptEvents c e es ∧ Emits s (attempt c t0 s) es ∧
        AttemptLeaves t0 e s (attempt c t0 s)) := by
  obtain ⟨q, hasked, hquery⟩ := queryReceiveDepth_asked hc s
  have hsame := queryReceiveDepth_same c s
  rcases Nat.lt_or_ge (queryReceiveDepth c s).1.toNat 4 with hshort | henough
  · rw [attempt_of_short t0 hshort]
    exact .inr ⟨rfl, .tooShort, q, .tooShort hasked hshort, hquery,
      attemptLeaves_of_same hsame ⟨rfl, rfl, rfl, rfl, rfl, rfl⟩⟩
  · rw [attempt_of_enough t0 henough]
    have hbudget := scanBudget_ne_zero c (queryReceiveDepth c s).2
    rcases scanHeader_events hc t0 (scanBudget c (queryReceiveDepth c s).2) (queryReceiveDepth c s).2 with
      ⟨hrun, sk, hskipped, hne, hscan⟩ | ⟨hidle, e, es, hevents, hscan, hleaves⟩
    · exact .inl ⟨hsame.stillScanning hrun, q ++ sk, ⟨_, q, sk, rfl, hasked, henough, hskipped, hne hbudget⟩,
        emits_trans hquery hscan⟩
    · exact .inr ⟨hidle, e, q ++ es, .scanned hasked henough hevents, emits_trans hquery hscan,
        attemptLeaves_of_same hsame hleaves⟩

/-! ## An attempt carried over steps -/

/-- The attempt that READDIST began in `s`, on channel operand `c`, still scans in `t`. -/
structure AttemptRuns (c : Byte) (s t : State) : Prop where
  session : t.session = .scanning (now s).1
  same : SameSession s t
  returned : t.returned = s.returned
  begun : ∃ es, AttemptBegun c es ∧ Emits s t es
  released : Released t
  channel : t.viewChan[t.sessView.toNat]? = some c
  grant : t.grant = s.grant

/-- The attempt that READDIST began in `s`, on channel operand `c`, has ended in `t`. -/
def AttemptOver (c : Byte) (s t : State) : Prop :=
  t.session = .idle ∧ ∃ e es, AttemptEvents c e es ∧ Emits s t es ∧ AttemptLeaves (now s).1 e s t

/-- A scan begun goes on with steps that find no header. -/
theorem attemptBegun_append {c : Byte} {es sk : List Event} (h : AttemptBegun c es) (k : Skipped c sk) :
    AttemptBegun c (es ++ sk) := by
  obtain ⟨n, q, sk₀, rfl, hasked, hn, hskipped, hne⟩ := h
  exact ⟨n, q, sk₀ ++ sk, List.append_assoc _ _ _, hasked, hn, skipped_append hskipped k, by simp [hne]⟩

/-- A scan begun ends as a scan does. -/
theorem attemptBegun_ends {c : Byte} {e : AttemptEnd} {es fs : List Event} (h : AttemptBegun c es)
    (k : ScanEvents c e fs) : AttemptEvents c e (es ++ fs) := by
  obtain ⟨n, q, sk, rfl, hasked, hn, hskipped, -⟩ := h
  rw [List.append_assoc]
  exact .scanned hasked hn (scanEvents_after_skipped hskipped k)

theorem attemptFrame_channel {s t : State} (h : AttemptFrame s t) :
    t.viewChan[t.sessView.toNat]? = s.viewChan[s.sessView.toNat]? := by
  unfold AttemptFrame at h
  rw [h]

/-- An admitted READDIST on a channel 0..3 begins an attempt. -/
theorem attempt_begins {s : State} {c : Byte} (hview : s.viewChan[s.sessView.toNat]? = some c) (hc : c.toNat < 4) :
    AttemptRuns c s (attempt c (now s).1 (now s).2) ∨ AttemptOver c s (attempt c (now s).1 (now s).2) := by
  obtain ⟨hframe, -⟩ := attempt_outcome c (now s).1 (now s).2
  rcases attempt_events hc (now s).1 (now s).2 with ⟨⟨hsession, hsame, hreturned⟩, hbegun⟩ | hover
  · obtain ⟨-, hgrant⟩ := attemptFrame_ports hframe
    exact .inl ⟨hsession, hsame, hreturned, hbegun, attempt_released_of_lt hc _ _,
      (attemptFrame_channel hframe).trans hview, hgrant⟩
  · exact .inr hover

/-- A step of an attempt that runs goes on with its scan, or ends it. -/
theorem AttemptRuns.step {c : Byte} {s t u : State} (hc : c.toNat < 4) (h : AttemptRuns c s t)
    (hstep : step t = .next u) : AttemptRuns c s u ∨ AttemptOver c s u := by
  obtain ⟨hsession, hsame, hreturned, ⟨es, hbegun, hemits⟩, hreleased, hchannel, hgrant⟩ := h
  have ⟨_, hidle, _⟩ := hreleased
  rw [step_of_scanning hidle hsession hchannel] at hstep
  cases hstep
  have hframe := scanHeader_frame c (now s).1 (scanBudget c t) t
  rcases scanHeader_events hc (now s).1 (scanBudget c t) t with
    ⟨⟨hsession', hsame', hreturned'⟩, sk, hskipped, -, hscan⟩ | ⟨hidle', e, fs, hevents, hscan, hleaves⟩
  · obtain ⟨-, hgrant'⟩ := attemptFrame_ports hframe
    exact .inl ⟨hsession', sameSession_trans hsame hsame', hreturned'.trans hreturned,
      ⟨_, attemptBegun_append hbegun hskipped, emits_trans hemits hscan⟩, scanHeader_released hreleased,
      (attemptFrame_channel hframe).trans hchannel, hgrant'.trans hgrant⟩
  · exact .inr ⟨hidle', e, _, attemptBegun_ends hbegun hevents, emits_trans hemits hscan,
      attemptLeaves_congr hsame hreturned hgrant hleaves⟩

/-- Requests and buffers the host presents between two steps do not touch an attempt. -/
theorem AttemptRuns.host {c : Byte} {s t : State} (h : AttemptRuns c s t) (ports : List (List Request)) (mem : Memory)
    (buffers : List HostBuffer) : AttemptRuns c s { t with ports := ports, mem := mem, buffers := buffers } :=
  ⟨h.session, h.same, h.returned, h.begun, h.released, h.channel, h.grant⟩

theorem attempt_resumed {c : Byte} {s u t : State} (hc : c.toNat < 4) (hbegins : AttemptRuns c s u ∨ AttemptOver c s u)
    (hresumed : Resumed u t) : AttemptRuns c s t ∨ AttemptOver c s t := by
  induction hresumed with
  | start => exact hbegins
  | step _ hscanning hstep ih =>
    rcases ih with hruns | ⟨hidle, -⟩
    · exact hruns.step hc hstep
    · rw [hidle] at hscanning
      cases hscanning
  | host ports mem buffers _ ih => exact ih.imp (·.host ports mem buffers) id

end Sys2Proof.Machine

namespace Sys2Proof

open Machine

/-- Settles O41: the first depth query answers 0x00 and does nothing, so the attempt ends in the state it began in. -/
theorem absentSessionChannel : Obligations.AbsentSessionChannel := by
  unfold Obligations.AbsentSessionChannel
  intro s c hview hge hadmitted
  have hquery := queryReceiveDepth_of_ge hge (now s).2
  have hshort : (queryReceiveDepth c (now s).2).1.toNat < 4 := by
    rw [hquery]
    exact Nat.zero_lt_succ 3
  rw [exec_readDist_of_channel hview, readDistance_of_admitted c hadmitted, attempt_of_short _ hshort, hquery]
  rfl

/-- Settles O42: the three outcomes of READDIST, each with the frame of an attempt. -/
theorem readDistOutcomes : Obligations.ReadDistOutcomes := by
  unfold Obligations.ReadDistOutcomes
  intro s c hview
  refine ⟨_, exec_readDist_of_channel hview, readDistance_frame c s, ?_⟩
  rcases readDistance_outcome c s with ⟨hlt, hreply⟩ | ⟨hge, ⟨hsession, hsame, hreturned⟩ | hended⟩
  · rw [hreply]
    exact .inl ⟨hlt, ⟨rfl, rfl, rfl, rfl, rfl⟩, rfl, rfl, rfl⟩
  · exact .inr (.inl ⟨hge, hsession, hsame, hreturned⟩)
  · exact .inr (.inr ⟨hge, hended⟩)

/-- Settles O43: the step is one more stretch of the header scan, which may test at least once. -/
theorem scanContinues : Obligations.ScanContinues := by
  unfold Obligations.ScanContinues
  intro s c t0 hidle hsession hview
  have hbudget := scanBudget_ne_zero c s
  refine ⟨_, step_of_scanning hidle hsession hview, scanHeader_frame c t0 _ s, fun hlt => ?_, fun hge => ?_⟩
  · rcases scanHeader_events hlt t0 (scanBudget c s) s with
      ⟨⟨hsession', hsame, hreturned⟩, sk, hskipped, hne, hscan⟩ | hended
    · exact .inl ⟨hsession', hsame, hreturned, sk, hskipped, hne hbudget, hscan⟩
    · exact .inr hended
  · obtain ⟨fuel, hfuel⟩ := Nat.exists_eq_succ_of_ne_zero hbudget
    rw [hfuel, scanHeader_absent hge]
    exact ⟨rfl, (List.append_nil _).symm, rfl, rfl, rfl, rfl, rfl, rfl⟩

/-- Settles O44: an attempt is begun by READDIST, and each later state runs or has ended it. -/
theorem attemptFollowsItsTranscript : Obligations.AttemptFollowsItsTranscript := by
  unfold Obligations.AttemptFollowsItsTranscript
  intro s u t c hview hc hadmitted hexec hresumed
  rw [exec_readDist_of_channel hview, readDistance_of_admitted c hadmitted] at hexec
  cases hexec
  rcases attempt_resumed hc (attempt_begins hview hc) hresumed with hruns | hover
  · exact .inl ⟨hruns.session, hruns.same, hruns.returned, hruns.begun⟩
  · exact .inr hover

end Sys2Proof
end

section
/-! READDIST at the reference peripheral and clock (60_exceptions.md section 4, 95_test_vectors.md section 0): the brackets of the
session's channel with their exact answers (R264), the scan over bytes without a header, and the ends of an attempt by the bytes
queued (R203 to R209, R221). -/

namespace Sys2Proof.Machine

open Sys2Proof

/-! ## The brackets with their answers (R264) -/

/-- The QRD bracket on channel operand `c` that answers `n`. -/
def qrdBracket (c n : Byte) : List Event := [.sel, .xfer (0x10 ||| c) 0x00, .xfer 0x00 n, .desel]

/-- The RXB bracket on channel operand `c` that answers `r`. -/
def rxbBracket (c r : Byte) : List Event := [.sel, .xfer (0x20 ||| c) 0x00, .xfer 0x01 0x00, .xfer 0x00 r, .desel]

/-- The byte returned while the block sends its command or length byte is 0x00. -/
theorem xfer_reference_sending {s : State} (henv : s.env = .reference)
    (hphase : s.periph.phase = .command ∨ ∃ q cc, s.periph.phase = .length q cc) (m : Byte) :
    (xfer m s).1 = 0x00 := by
  change s.periph.answer s.env s.draws = 0x00
  rcases hphase with hphase | ⟨q, cc, hphase⟩ <;> rw [Peripheral.answer, hphase, henv] <;> rfl

theorem queryReceiveDepth_reference_emits {c : Byte} {cc : Chan} {s : State} (henv : s.env = .reference)
    (hc : channel? c = some cc) :
    Emits s (queryReceiveDepth c s).2 (qrdBracket c (queryReceiveDepth c s).1) := by
  have hcommand : (xfer (cmdByte 0x1#4 cc) (selBus s)).1 = 0x00 :=
    xfer_reference_sending (s := selBus s) henv (.inl rfl) _
  have hbracket := bracket_emits (emits_trans (xfer_emits (cmdByte 0x1#4 cc) (selBus s)) (xfer_emits Config.fill _))
  rw [hcommand] at hbracket
  have hbyte : cmdByte 0x1#4 cc = 0x10 ||| c := cmdByte_of_channel? hc _
  rw [qrdBracket, ← hbyte]
  simp only [queryReceiveDepth, hc]
  exact hbracket

theorem receiveByte_reference_emits {c : Byte} {cc : Chan} {s : State} (henv : s.env = .reference)
    (hc : channel? c = some cc) : Emits s (receiveByte c s).2 (rxbBracket c (receiveByte c s).1) := by
  have hcommand : (xfer (cmdByte 0x2#4 cc) (selBus s)).1 = 0x00 :=
    xfer_reference_sending (s := selBus s) henv (.inl rfl) _
  have hphase : (xfer (cmdByte 0x2#4 cc) (selBus s)).2.periph.phase = .length .rx cc := by
    rw [xfer_command_periph, command_next_rx]
  have hlength := xfer_reference_sending (s := (xfer (cmdByte 0x2#4 cc) (selBus s)).2) henv (.inr ⟨_, _, hphase⟩) 0x01
  have hbracket := bracket_emits (emits_trans
    (emits_trans (xfer_emits (cmdByte 0x2#4 cc) (selBus s)) (xfer_emits 0x01 _)) (xfer_emits Config.fill _))
  rw [hcommand, hlength] at hbracket
  have hbyte : cmdByte 0x2#4 cc = 0x20 ||| c := cmdByte_of_channel? hc _
  rw [rxbBracket, ← hbyte]
  simp only [receiveByte, hc]
  exact hbracket

theorem depthByte_toNat (q : List Byte) : (depthByte q).toNat = min q.length 255 := by
  rw [depthByte, BitVec.toNat_ofNat, Nat.mod_eq_of_lt (by omega)]

theorem depthByte_cons_ne_zero (b : Byte) (q : List Byte) : depthByte (b :: q) ≠ 0 := by
  intro h
  have hzero := congrArg BitVec.toNat h
  rw [depthByte_toNat, List.length_cons] at hzero
  simp at hzero

/-! ## Bridge operations on the session's stream -/

/-- Bridge operations lead from `s` to `u`: they add the events `es`, and leave `q` waiting in RQ of channel `cc`. -/
structure Streamed (cc : Chan) (es : List Event) (q : List Byte) (s u : State) : Prop where
  same : SameForSession s u
  queue : (u.periph.get cc).rq = q
  emits : Emits s u es

/-- An attempt with the clock sample `t0` goes from `s` to its end `e` in `t`: it adds the events `es`, and leaves `q` waiting in RQ
of channel `cc`. -/
structure AttemptEnds (cc : Chan) (t0 : Clock) (e : AttemptEnd) (es : List Event) (q : List Byte) (s t : State) :
    Prop where
  idle : t.session = .idle
  leaves : AttemptLeaves t0 e s t
  queue : (t.periph.get cc).rq = q
  emits : Emits s t es

theorem Streamed.trans {cc : Chan} {es fs : List Event} {q r : List Byte} {s t u : State} (h : Streamed cc es q s t)
    (k : Streamed cc fs r t u) : Streamed cc (es ++ fs) r s u :=
  ⟨h.same.trans k.same, k.queue, emits_trans h.emits k.emits⟩

theorem Streamed.ends {cc : Chan} {t0 : Clock} {e : AttemptEnd} {es fs : List Event} {q r : List Byte} {s t u : State}
    (h : Streamed cc es q s t) (k : AttemptEnds cc t0 e fs r t u) : AttemptEnds cc t0 e (es ++ fs) r s u :=
  ⟨k.idle, attemptLeaves_of_same h.same k.leaves, k.queue, emits_trans h.emits k.emits⟩

theorem Streamed.env {cc : Chan} {es : List Event} {q : List Byte} {s u : State} (h : Streamed cc es q s u) :
    u.env = s.env := by
  obtain ⟨hframe, -⟩ := h.same
  unfold AttemptFrame at hframe
  rw [hframe]

section

variable {c : Byte} {cc : Chan} {s : State} {q : List Byte}
variable (henv : s.env = .reference) (hc : channel? c = some cc)

include henv hc

theorem queryReceiveDepth_streamed (hq : (s.periph.get cc).rq = q) :
    (queryReceiveDepth c s).1 = depthByte q ∧
      Streamed cc (qrdBracket c (depthByte q)) q s (queryReceiveDepth c s).2 := by
  obtain ⟨hcount, hperiph⟩ := queryReceiveDepth_reference henv hc
  have hemits := queryReceiveDepth_reference_emits henv hc
  rw [hcount, hq] at hemits
  refine ⟨by rw [hcount, hq], queryReceiveDepth_same c s, ?_, hemits⟩
  rw [hperiph]
  exact hq

theorem receiveByte_streamed {b : Byte} (hq : (s.periph.get cc).rq = b :: q) :
    (receiveByte c s).1 = b ∧ Streamed cc (rxbBracket c b) q s (receiveByte c s).2 := by
  obtain ⟨hbyte, hchannel⟩ := receiveByte_reference henv hc
  have hemits := receiveByte_reference_emits henv hc
  rw [hq, List.headD_cons] at hbyte
  rw [hbyte] at hemits
  exact ⟨hbyte, receiveByte_same c s, by rw [hchannel, hq, List.tail_cons], hemits⟩

/-! ## Behind the header (R205 to R208) -/

/-- The three bytes behind the header end the attempt as a frame does. -/
theorem completeFrame_reference (t0 : Clock) {hi lo cs : Byte} (hq : (s.periph.get cc).rq = hi :: lo :: cs :: q) :
    AttemptEnds cc t0 (.frame hi lo cs) (rxbBracket c hi ++ rxbBracket c lo ++ rxbBracket c cs) q s
      (completeFrame c t0 s) := by
  obtain ⟨hhi, shi⟩ := receiveByte_streamed henv hc hq
  obtain ⟨hlo, slo⟩ := receiveByte_streamed (shi.env.trans henv) hc shi.queue
  obtain ⟨hcs, scs⟩ := receiveByte_streamed ((shi.trans slo).env.trans henv) hc slo.queue
  have hstream := (shi.trans slo).trans scs
  unfold completeFrame
  simp only [hhi, hlo, hcs]
  split_ifs with hsum
  · exact ⟨rfl, attemptLeaves_of_same hstream.same ⟨rfl, rfl, rfl, by rw [if_pos hsum]; exact ⟨rfl, rfl, rfl⟩⟩,
      hstream.queue, hstream.emits⟩
  · exact ⟨rfl, attemptLeaves_of_same hstream.same ⟨rfl, rfl, rfl, by rw [if_neg hsum]; exact ⟨rfl, rfl, rfl⟩⟩,
      hstream.queue, hstream.emits⟩

theorem afterHeader_reference_frame (t0 : Clock) {hi lo cs : Byte}
    (hq : (s.periph.get cc).rq = hi :: lo :: cs :: q) :
    AttemptEnds cc t0 (.frame hi lo cs) (qrdBracket c (depthByte (hi :: lo :: cs :: q)) ++
      (rxbBracket c hi ++ rxbBracket c lo ++ rxbBracket c cs)) q s (afterHeader c t0 s) := by
  obtain ⟨hcount, hstream⟩ := queryReceiveDepth_streamed henv hc hq
  have henough : ¬ depthByte (hi :: lo :: cs :: q) < Config.frameLen - 1 := by
    rw [BitVec.lt_def, depthByte_toNat]
    simp
  rw [afterHeader]
  simp only [hcount, if_neg henough]
  exact hstream.ends (completeFrame_reference (hstream.env.trans henv) hc t0 hstream.queue)

theorem afterHeader_reference_incomplete (t0 : Clock) (hq : (s.periph.get cc).rq = q) (hlen : q.length < 3) :
    AttemptEnds cc t0 .incomplete (qrdBracket c (depthByte q)) q s (afterHeader c t0 s) := by
  obtain ⟨hcount, hstream⟩ := queryReceiveDepth_streamed henv hc hq
  have hfew : depthByte q < Config.frameLen - 1 := by
    rw [BitVec.lt_def, depthByte_toNat]
    exact (Nat.min_le_left _ _).trans_lt hlen
  rw [afterHeader]
  simp only [hcount, if_pos hfew]
  exact ⟨rfl, attemptLeaves_of_same hstream.same ⟨rfl, rfl, rfl, rfl, rfl, rfl⟩, hstream.queue, hstream.emits⟩

/-! ## The header scan (R204) -/

/-- A scan that finds no byte left ends the attempt (R204). -/
theorem scanHeader_reference_empty (t0 : Clock) (fuel : Nat) (hq : (s.periph.get cc).rq = []) :
    AttemptEnds cc t0 .noHeader (qrdBracket c 0x00) [] s (scanHeader c t0 (fuel + 1) s) := by
  obtain ⟨hcount, hstream⟩ := queryReceiveDepth_streamed henv hc hq
  have hnone : (queryReceiveDepth c s).1 = 0 := hcount
  rw [scanHeader]
  simp only [if_pos hnone]
  exact ⟨rfl, attemptLeaves_of_same hstream.same ⟨rfl, rfl, rfl, rfl, rfl, rfl⟩, hstream.queue, hstream.emits⟩

/-- One test of a scan with a byte waiting: the header ends the scan, and every other byte is skipped (R204). -/
theorem scanHeader_reference_cons (t0 : Clock) (fuel : Nat) {b : Byte} (hq : (s.periph.get cc).rq = b :: q) :
    ∃ u, Streamed cc (qrdBracket c (depthByte (b :: q)) ++ rxbBracket c b) q s u ∧
      scanHeader c t0 (fuel + 1) s = if b = Config.header then afterHeader c t0 u else scanHeader c t0 fuel u := by
  obtain ⟨hcount, hquery⟩ := queryReceiveDepth_streamed henv hc hq
  obtain ⟨hbyte, hreceive⟩ := receiveByte_streamed (hquery.env.trans henv) hc hquery.queue
  refine ⟨_, hquery.trans hreceive, ?_⟩
  rw [scanHeader]
  simp only [hcount, hbyte, if_neg (depthByte_cons_ne_zero b q)]

/-- A scan with the header at the head of the stream goes on behind the header (R205). -/
theorem scanHeader_reference_header (t0 : Clock) (fuel : Nat) (hq : (s.periph.get cc).rq = Config.header :: q) :
    ∃ u, Streamed cc (qrdBracket c (depthByte (Config.header :: q)) ++ rxbBracket c Config.header) q s u ∧
      scanHeader c t0 (fuel + 1) s = afterHeader c t0 u := by
  obtain ⟨u, hstream, hscan⟩ := scanHeader_reference_cons henv hc t0 fuel hq
  exact ⟨u, hstream, hscan.trans (if_pos rfl)⟩

/-- A scan skips the bytes in which there is no header (R204). -/
theorem scanHeader_reference_skips (t0 : Clock) (fuel : Nat) {before : List Byte} (hno : Config.header ∉ before)
    (hq : (s.periph.get cc).rq = before ++ q) :
    ∃ es u, Streamed cc es q s u ∧ scanHeader c t0 (before.length + fuel) s = scanHeader c t0 fuel u := by
  induction before generalizing s with
  | nil => exact ⟨[], s, ⟨.refl s, hq, (List.append_nil _).symm⟩, by rw [List.length_nil, Nat.zero_add]⟩
  | cons b before ih =>
    obtain ⟨hb, hno⟩ := not_or.mp (mt List.mem_cons.mpr hno)
    obtain ⟨u, hone, hscan⟩ := scanHeader_reference_cons henv hc t0 (before.length + fuel) hq
    obtain ⟨es, v, hrest, hskip⟩ := ih (hone.env.trans henv) hno hone.queue
    refine ⟨_, v, hone.trans hrest, ?_⟩
    rw [List.length_cons, Nat.add_right_comm, hscan, if_neg (Ne.symm hb), hskip]

/-- The budget of a step lets a scan skip every byte before the header and test once more than bytes wait behind them. -/
theorem scanHeader_reference_budget (t0 : Clock) {before : List Byte} (hno : Config.header ∉ before)
    (hq : (s.periph.get cc).rq = before ++ q) :
    ∃ es u, Streamed cc es q s u ∧ scanHeader c t0 (scanBudget c s) s = scanHeader c t0 (q.length + 1) u := by
  have hbudget : scanBudget c s = before.length + (q.length + 1) := by
    simp [scanBudget, hc, hq, Nat.add_assoc]
  rw [hbudget]
  exact scanHeader_reference_skips henv hc t0 (q.length + 1) hno hq

/-- At the reference peripheral a step's budget is enough for the whole scan (R264). -/
theorem scanHeader_reference_idle (t0 : Clock) : (scanHeader c t0 (scanBudget c s) s).session = .idle := by
  by_cases hheader : Config.header ∈ (s.periph.get cc).rq
  · obtain ⟨before, after, hq, hno⟩ := List.eq_append_cons_of_mem hheader
    obtain ⟨es, u, hskip, hscan⟩ := scanHeader_reference_budget henv hc t0 hno hq
    obtain ⟨v, -, hfound⟩ := scanHeader_reference_header (hskip.env.trans henv) hc t0 _ hskip.queue
    obtain ⟨-, ⟨hidle, -⟩, -⟩ := afterHeader_ended c t0 v
    rw [hscan, hfound, hidle]
  · obtain ⟨es, u, hskip, hscan⟩ :=
      scanHeader_reference_budget henv hc t0 hheader (List.append_nil _).symm
    rw [hscan]
    exact (scanHeader_reference_empty (hskip.env.trans henv) hc t0 _ hskip.queue).idle

/-! ## The first depth query (R203) -/

/-- With 4 bytes or more queued an attempt scans them. -/
theorem attempt_reference_scans (t0 : Clock) (hq : (s.periph.get cc).rq = q) (hlen : 4 ≤ q.length) :
    ∃ u, Streamed cc (qrdBracket c (depthByte q)) q s u ∧
      attempt c t0 s = scanHeader c t0 (scanBudget c u) u := by
  obtain ⟨hcount, hstream⟩ := queryReceiveDepth_streamed henv hc hq
  have henough : 4 ≤ (queryReceiveDepth c s).1.toNat := by
    rw [hcount, depthByte_toNat]
    omega
  exact ⟨_, hstream, attempt_of_enough t0 henough⟩

theorem attempt_reference_idle (t0 : Clock) : (attempt c t0 s).session = .idle := by
  obtain ⟨-, hstream⟩ := queryReceiveDepth_streamed henv hc rfl
  rcases Nat.lt_or_ge (queryReceiveDepth c s).1.toNat 4 with hshort | henough
  · rw [attempt_of_short t0 hshort]
    rfl
  · rw [attempt_of_enough t0 henough]
    exact scanHeader_reference_idle (hstream.env.trans henv) hc t0

end

/-! ## READDIST, admitted -/

/-- The reference clock stands still (95_test_vectors.md section 0). -/
theorem now_reference {s : State} (henv : s.env = .reference) : (now s).1 = s.clock := by
  change s.clock + clockAdvance s.env s.draws = s.clock
  rw [henv]
  exact BitVec.add_zero _

section

variable {s : State} {c : Byte} {cc : Chan} {q : List Byte}
variable (henv : s.env = .reference) (hc : channel? c = some cc)
variable (hadmitted : 100 ≤ (elapsed s.clock s.lastReadMs).toNat)

include henv hc hadmitted

theorem readDistance_reference_scans (hq : (s.periph.get cc).rq = q) (hlen : 4 ≤ q.length) :
    ∃ u, Streamed cc (qrdBracket c (depthByte q)) q (now s).2 u ∧
      readDistance c s = scanHeader c s.clock (scanBudget c u) u := by
  have hnow := now_reference henv
  obtain ⟨u, hstream, hscan⟩ := attempt_reference_scans (s := (now s).2) henv hc s.clock hq hlen
  refine ⟨u, hstream, ?_⟩
  rw [readDistance_of_admitted c (hnow.symm ▸ hadmitted), hnow, hscan]

/-- An admitted READDIST skips the bytes in which there is no header. -/
theorem readDistance_reference_skips {before : List Byte} (hno : Config.header ∉ before)
    (hq : (s.periph.get cc).rq = before ++ q) (hlen : 4 ≤ (before ++ q).length) :
    ∃ es u, u.env = .reference ∧ Streamed cc es q (now s).2 u ∧
      readDistance c s = scanHeader c s.clock (q.length + 1) u := by
  obtain ⟨u, hstream, hread⟩ := readDistance_reference_scans henv hc hadmitted hq hlen
  have henv' := hstream.env.trans henv
  obtain ⟨es, v, hskip, hscan⟩ := scanHeader_reference_budget henv' hc s.clock hno hstream.queue
  exact ⟨_, v, hskip.env.trans henv', hstream.trans hskip, hread.trans hscan⟩

/-- A whole frame behind bytes without a header ends the attempt with its three bytes (R206 to R208). -/
theorem readDistance_reference_frame {before : List Byte} {hi lo cs : Byte} (hno : Config.header ∉ before)
    (hq : (s.periph.get cc).rq = before ++ Config.header :: hi :: lo :: cs :: q) :
    ∃ es, AttemptEnds cc s.clock (.frame hi lo cs) es q (now s).2 (readDistance c s) := by
  obtain ⟨es, u, henv', hskip, hread⟩ := readDistance_reference_skips henv hc hadmitted hno hq
    (by simp only [List.length_append, List.length_cons]; omega)
  obtain ⟨v, hheader, hscan⟩ := scanHeader_reference_header henv' hc s.clock _ hskip.queue
  have hframe := afterHeader_reference_frame (hheader.env.trans henv') hc s.clock hheader.queue
  rw [hread, hscan]
  exact ⟨_, hskip.ends (hheader.ends hframe)⟩

/-- Four bytes or more in which there is no header end the attempt without one (R204). -/
theorem readDistance_reference_noHeader (hno : Config.header ∉ q) (hq : (s.periph.get cc).rq = q) (hlen : 4 ≤ q.length) :
    ∃ es, AttemptEnds cc s.clock .noHeader es [] (now s).2 (readDistance c s) := by
  rw [← List.append_nil q] at hq hlen
  obtain ⟨es, u, henv', hskip, hread⟩ := readDistance_reference_skips henv hc hadmitted hno hq hlen
  rw [hread]
  exact ⟨_, hskip.ends (scanHeader_reference_empty henv' hc s.clock _ hskip.queue)⟩

/-- A header with fewer than 3 bytes behind it ends the attempt incomplete (R205). -/
theorem readDistance_reference_incomplete {before : List Byte} (hno : Config.header ∉ before)
    (hq : (s.periph.get cc).rq = before ++ Config.header :: q) (hfew : q.length < 3)
    (hlen : 4 ≤ (before ++ Config.header :: q).length) :
    ∃ es, AttemptEnds cc s.clock .incomplete es q (now s).2 (readDistance c s) := by
  obtain ⟨es, u, henv', hskip, hread⟩ := readDistance_reference_skips henv hc hadmitted hno hq hlen
  obtain ⟨v, hheader, hscan⟩ := scanHeader_reference_header henv' hc s.clock _ hskip.queue
  have hincomplete :=
    afterHeader_reference_incomplete (hheader.env.trans henv') hc s.clock hheader.queue hfew
  rw [hread, hscan]
  exact ⟨_, hskip.ends (hheader.ends hincomplete)⟩

/-- A whole frame at the head of the stream: the two depth queries, the header, the third depth query, the three bytes. -/
theorem readDistance_reference_head {hi lo cs : Byte}
    (hq : (s.periph.get cc).rq = Config.header :: hi :: lo :: cs :: q) :
    Emits s (readDistance c s) (
      qrdBracket c (depthByte (Config.header :: hi :: lo :: cs :: q)) ++
      (qrdBracket c (depthByte (Config.header :: hi :: lo :: cs :: q)) ++ rxbBracket c Config.header ++
      (qrdBracket c (depthByte (hi :: lo :: cs :: q)) ++
      (rxbBracket c hi ++ rxbBracket c lo ++ rxbBracket c cs)))) := by
  obtain ⟨u, hstream, hread⟩ := readDistance_reference_scans henv hc hadmitted hq
    (by simp only [List.length_cons]; omega)
  have henv' := hstream.env.trans henv
  obtain ⟨fuel, hfuel⟩ := Nat.exists_eq_succ_of_ne_zero (scanBudget_ne_zero c u)
  obtain ⟨v, hheader, hscan⟩ := scanHeader_reference_header henv' hc s.clock fuel hstream.queue
  have hframe := afterHeader_reference_frame (hheader.env.trans henv') hc s.clock hheader.queue
  rw [hread, hfuel, hscan]
  exact (hstream.ends (hheader.ends hframe)).emits

end

end Sys2Proof.Machine

namespace Sys2Proof

open Machine

/-- Settles O45: a throttled call leaves the session as it was, and an admitted one ends its attempt in the one step. -/
theorem referenceReadDistEnds : Obligations.ReferenceReadDistEnds := by
  unfold Obligations.ReferenceReadDistEnds
  intro s c henv hidle hview
  refine ⟨_, exec_readDist_of_channel hview, ?_⟩
  rcases Nat.lt_or_ge (elapsed (now s).1 s.lastReadMs).toNat 100 with hthrottled | hadmitted
  · rw [readDistance_of_throttled c hthrottled]
    exact hidle
  · rcases Nat.lt_or_ge c.toNat 4 with hlt | hge
    · rw [readDistance_of_admitted c hadmitted]
      exact attempt_reference_idle (s := (now s).2) henv (channel?_of_lt hlt) _
    · have hexec := absentSessionChannel s c hview hge hadmitted
      rw [exec_readDist_of_channel hview] at hexec
      rw [Host.Outcome.next.inj hexec]

/-- Settles O46: the frame's checksum is right, so its attempt is a success. -/
theorem referenceFrameDecodes : Obligations.ReferenceFrameDecodes := by
  unfold Obligations.ReferenceFrameDecodes
  intro s c cc before rest hi lo henv hview hc hadmitted hq hno
  obtain ⟨es, hends⟩ := readDistance_reference_frame henv hc hadmitted hno hq
  obtain ⟨hread, hreturns, hstatus, hsum⟩ := hends.leaves
  rw [if_pos rfl] at hsum
  obtain ⟨hresult, hdistance, hsuccess⟩ := hsum
  have hframe := readDistance_frame c s
  obtain ⟨hmode, -⟩ := attemptFrame_mode hframe
  have hmem := attemptFrame_mem hframe
  refine ⟨_, exec_readDist_of_channel hview, hends.idle, hstatus, hresult, hresult ▸ hreturns, ?_, hsuccess, hread,
    hends.queue, hmode, fun a => by rw [hmem]; rfl⟩
  rw [hdistance, decodedDistance_toNat, rawDistance_toNat]

/-- Settles O47: the frame's checksum is wrong, so its attempt is a mismatch. -/
theorem referenceChecksumMismatch : Obligations.ReferenceChecksumMismatch := by
  unfold Obligations.ReferenceChecksumMismatch
  intro s c cc before rest hi lo cs henv hview hc hadmitted hq hno hcs
  obtain ⟨es, hends⟩ := readDistance_reference_frame henv hc hadmitted hno hq
  obtain ⟨hread, hreturns, hstatus, hsum⟩ := hends.leaves
  rw [if_neg hcs] at hsum
  obtain ⟨hresult, hdistance, hsuccess⟩ := hsum
  exact ⟨_, exec_readDist_of_channel hview, hends.idle, hstatus, hresult, hresult ▸ hreturns, hdistance, hsuccess, hread,
    hends.queue⟩

/-- Settles O48: the two ends of a scan that come before a frame. -/
theorem referenceScanFailures : Obligations.ReferenceScanFailures := by
  unfold Obligations.ReferenceScanFailures
  intro s c cc before after henv hview hc hadmitted hno
  have hexec := exec_readDist_of_channel hview
  refine ⟨fun hq hlen => ?_, fun hq hfew hlen => ?_⟩
  · obtain ⟨es, hends⟩ := readDistance_reference_noHeader henv hc hadmitted hno hq hlen
    obtain ⟨hread, hreturns, hstatus, hresult, hdistance, hsuccess⟩ := hends.leaves
    exact ⟨_, hexec, hends.idle, hstatus, hresult, hresult ▸ hreturns, hread, hdistance, hsuccess, hends.queue⟩
  · obtain ⟨es, hends⟩ := readDistance_reference_incomplete henv hc hadmitted hno hq hfew
      (by rw [List.length_append, List.length_cons]; omega)
    obtain ⟨hread, hreturns, hstatus, hresult, hdistance, hsuccess⟩ := hends.leaves
    exact ⟨_, hexec, hends.idle, hstatus, hresult, hresult ▸ hreturns, hread, hdistance, hsuccess, hends.queue⟩

/-- Settles O49: the seven brackets, with the depth of a stream given by its length. -/
theorem wholeFrameCostsSevenBrackets : Obligations.WholeFrameCostsSevenBrackets := by
  unfold Obligations.WholeFrameCostsSevenBrackets
  intro s c cc rest hi lo cs henv hview hc hadmitted hq
  refine ⟨_, exec_readDist_of_channel hview, ?_⟩
  have hemits := readDistance_reference_head henv hc hadmitted hq
  simp only [depthByte, List.length_cons] at hemits
  rw [show 4 + rest.length = rest.length + 1 + 1 + 1 + 1 by omega, show 3 + rest.length = rest.length + 1 + 1 + 1 by omega]
  exact hemits

end Sys2Proof
end
